-- ==== Sys2Proof/Word.lean ====
section
/-! DEFINITION. The widths of the Texture Swizzle Engine (TSE): 32-bit registers and command words
(spec/10_state.md R20, spec/30_encoding.md R90), 64-bit external-memory addresses (spec/20_memory.md R60), bytes, and
the 4-bit texels of spec/44_ps2_gs.md R270. Arithmetic on register values is done on natural numbers
(spec/00_scope.md R7), so no operation on words is defined here. -/

namespace Sys2Proof

/-- One byte of external memory (R60). -/
abbrev Byte := BitVec 8

/-- One register, or one command word (R20, R90). -/
abbrev Word := BitVec 32

/-- An address of external memory, 0 to 2^64 - 1 (R60). -/
abbrev Address := BitVec 64

/-- One 4-bit texel of a PS2 4-bit buffer (R270). -/
abbrev Nibble := BitVec 4

end Sys2Proof
end

