-- ==== Sys2Proof/Config.lean ====
section
/-! DEFINITION. What is fixed for one model instance (spec/00_scope.md R5, R6).
The values the spec leaves OPEN are constants without a body: nothing in Lean can evaluate them, so a claim holds for
every value (log entries 3 to 8). The requirements a model instance must meet are stated here as propositions; a claim
that needs one takes it as a premise. The fixed constants of R5 (Wii U chip, GOB, PS4 tile) stand with the family that uses them. -/

namespace Sys2Proof

/-- A PS5 super-tile, width first, in units (R237): one of the two values R5 admits. -/
inductive Ps5Tile where
  | tile32x16
  | tile16x16
  deriving DecidableEq, Repr

/-- The three 4-bit address functions the register `PS2_SWIZZLE_TYPE` selects among (R272). -/
inductive Ps24Variant where
  /-- selector 1, "standard" -/
  | standard
  /-- selector 2, EA "type 3" -/
  | type3
  /-- selector 3, "Suba"/ezSwizzle -/
  | suba
  deriving DecidableEq, Repr

namespace Config

/-- OPEN `N_INSTANCES`, less one: how many instances there are beside the first (R5, R390; `n_instances >= 1`). -/
opaque otherInstances : Nat

/-- OPEN `TSE_BASE`: the base address, in the host's address space, of the register space of instance `k` (R5, R20). -/
opaque tseBase (k : Nat) : Nat

/-- OPEN `PS5_TILE(B)`: the super-tile for units of `B` bytes; `none` where it is undefined (R237). -/
opaque ps5Tile (B : Nat) : Option Ps5Tile

/-- OPEN `PS2_4_OK_k(W, H)`: does variant `k` admit this geometry (R272)? -/
opaque ps24Ok (k : Ps24Variant) (W H : Nat) : Bool

/-- OPEN `PS2_4_ADDR_k(x, y, W, H)`: a nibble index (R272). -/
opaque ps24Addr (k : Ps24Variant) (x y W H : Nat) : Nat

/-- OPEN `WIIU_FMT_BPP(f)`: bits per element of the Wii U hardware format `f`; 0 = no such format (R322). -/
opaque wiiuFmtBpp (f : Nat) : Nat

/-- OPEN `WIIU_FMT_IS_BC(f)`: is format `f` block-compressed (R322)? -/
opaque wiiuFmtIsBc (f : Nat) : Bool

/-! ## Requirements on the OPEN parameters (the table at the end of spec/92_eei_decisions.md) -/

/-- The register spaces of the first `n` instances do not overlap. -/
def BasesApartBelow (n : Nat) : Prop :=
  ∀ j k, j < n → k < n → j ≠ k → tseBase j + 256 ≤ tseBase k ∨ tseBase k + 256 ≤ tseBase j

/-- `TSE_BASE`: the register spaces of distinct instances do not overlap (D3). -/
def BasesApart : Prop := BasesApartBelow (otherInstances + 1)

/-- R272 property 1 of one variant at one geometry: a bijection from `[0,W) x [0,H)` onto `0..W*H-1`. -/
def Ps24Bijective (addr : Nat → Nat → Nat → Nat → Nat) (W H : Nat) : Prop :=
  (∀ x y, x < W → y < H → addr x y W H < W * H) ∧
  (∀ x y x' y', x < W → y < H → x' < W → y' < H → addr x y W H = addr x' y' W H → x = x' ∧ y = y')

/-- R272 property 1: each variant is a bijection at every geometry it admits. -/
def Ps24Lawful : Prop :=
  ∀ k W H, ps24Ok k W H = true → Ps24Bijective (ps24Addr k) W H

/-- R272 property 2: any two variants differ at some geometry both admit. -/
def Ps24Diverge : Prop :=
  ∀ k k', k ≠ k' → ∃ W H, ps24Ok k W H = true ∧ ps24Ok k' W H = true ∧
    ∃ x y, x < W ∧ y < H ∧ ps24Addr k x y W H ≠ ps24Addr k' x y W H

/-- The constraint of D33 on the format table: every entry is 0 or a legal element size. -/
def FormatsLawful : Prop :=
  ∀ f, f < 64 → wiiuFmtBpp f ∈ [0, 8, 16, 32, 64, 128]

end Config

end Sys2Proof
end

