-- ==== Sys2Proof/Syntax.lean ====
section
/-! DEFINITION. What the machine can be told to do: the 41 commands of the opcode map (spec/30_encoding.md R94), and
the accesses a host makes (spec/20_memory.md R60, R61; spec/30_encoding.md R100; spec/70_reset_and_hazards.md R401). -/

namespace Sys2Proof

/-- The 41 commands of R94, one constructor a row of spec/opcode_table.json. No command has an immediate operand
(R90): every operand is a parameter register (R97, R99), so no constructor has an argument. -/
inductive Instr where
  /-- `MORTON.UNSWZ`, command word 0x00000001; 43: R212. -/
  | mortonUnswz
  /-- `MORTON.SWZ`, command word 0x00000101; 43: R213. -/
  | mortonSwz
  /-- `MORTON.ADDR`, command word 0x00000201; 43: R214. -/
  | mortonAddr
  /-- `MORTON.IDX`, command word 0x00000301; 41: R156. -/
  | mortonIdx
  /-- `MORTONR.UNSWZ`, command word 0x00000002; 43: R216. -/
  | mortonRUnswz
  /-- `MORTONR.SWZ`, command word 0x00000102; 43: R217. -/
  | mortonRSwz
  /-- `MORTONR.ADDR`, command word 0x00000202; 43: R218. -/
  | mortonRAddr
  /-- `MORTONR.IDX`, command word 0x00000302; 41: R157. -/
  | mortonRIdx
  /-- `X360.UNSWZ`, command word 0x00000003; 43: R226. -/
  | x360Unswz
  /-- `X360.SWZ`, command word 0x00000103; 43: R227. -/
  | x360Swz
  /-- `X360.ADDR`, command word 0x00000203; 43: R228. -/
  | x360Addr
  /-- `PS4.UNSWZ`, command word 0x00000004; 43: R234. -/
  | ps4Unswz
  /-- `PS4.SWZ`, command word 0x00000104; 43: R235. -/
  | ps4Swz
  /-- `PS4.ADDR`, command word 0x00000204; 43: R236. -/
  | ps4Addr
  /-- `PS5.UNSWZ`, command word 0x00000005; 43: R241. -/
  | ps5Unswz
  /-- `PS5.SWZ`, command word 0x00000105; 43: R242. -/
  | ps5Swz
  /-- `PS5.ADDR`, command word 0x00000205; 43: R243. -/
  | ps5Addr
  /-- `BLK.UNSWZ`, command word 0x00000010; 42: R174. -/
  | blkUnswz
  /-- `BLK.SWZ`, command word 0x00000110; 42: R175. -/
  | blkSwz
  /-- `BLK.ADDR`, command word 0x00000210; 42: R176. -/
  | blkAddr
  /-- `3DS.UNSWZ`, command word 0x00000011; 42: R182. -/
  | n3dsUnswz
  /-- `3DS.SWZ`, command word 0x00000111; 42: R183. -/
  | n3dsSwz
  /-- `3DS.ADDR`, command word 0x00000211; 42: R184. -/
  | n3dsAddr
  /-- `PSP.UNSWZ`, command word 0x00000012; 42: R193. -/
  | pspUnswz
  /-- `PSP.SWZ`, command word 0x00000112; 42: R194. -/
  | pspSwz
  /-- `PSP.ADDR`, command word 0x00000212; 42: R195. -/
  | pspAddr
  /-- `PS2.8.UNSWZ`, command word 0x00000020; 44: R264. -/
  | ps28Unswz
  /-- `PS2.8.SWZ`, command word 0x00000120; 44: R265. -/
  | ps28Swz
  /-- `PS2.8.ADDR`, command word 0x00000220; 44: R266. -/
  | ps28Addr
  /-- `PS2.4.UNSWZ`, command word 0x00000021; 44: R274. -/
  | ps24Unswz
  /-- `PS2.4.SWZ`, command word 0x00000121; 44: R275. -/
  | ps24Swz
  /-- `PS2.4.ADDR`, command word 0x00000221; 44: R276. -/
  | ps24Addr
  /-- `PS2.PAL.UNSWZ`, command word 0x00000022; 44: R282. -/
  | ps2PalUnswz
  /-- `PS2.PAL.SWZ`, command word 0x00000122; 44: R283. -/
  | ps2PalSwz
  /-- `PS2.PAL.ADDR`, command word 0x00000222; 44: R284. -/
  | ps2PalAddr
  /-- `NSW.UNSWZ`, command word 0x00000030; 45: R306. -/
  | nswUnswz
  /-- `NSW.SWZ`, command word 0x00000130; 45: R307. -/
  | nswSwz
  /-- `NSW.ADDR`, command word 0x00000230; 45: R308. -/
  | nswAddr
  /-- `WIIU.UNSWZ`, command word 0x00000040; 46: R338. -/
  | wiiuUnswz
  /-- `WIIU.SWZ`, command word 0x00000140; 46: R339. -/
  | wiiuSwz
  /-- `WIIU.ADDR`, command word 0x00000240; 46: R340. -/
  | wiiuAddr
  deriving DecidableEq, Repr

/-- The remapper an operation code names (R92). -/
inductive Remapper where
  | morton
  | mortonR
  | x360
  | ps4
  | ps5
  | blk
  | n3ds
  | psp
  | ps28
  | ps24
  | ps2Pal
  | nsw
  | wiiu
  deriving DecidableEq, Repr

/-- The function field of a command word (R93). -/
inductive Fn where
  /-- FN = 0: platform layout to linear -/
  | unswz
  /-- FN = 1: linear to platform layout -/
  | swz
  /-- FN = 2: one address -/
  | addr
  /-- FN = 3: the Morton index primitive -/
  | idx
  deriving DecidableEq, Repr

/-- Which register an access names: by the number of an instance and the byte offset in its register space (R20, R24),
or by an address of the host's address space, which `TSE_BASE` places (R5, R79). -/
inductive RegTarget where
  | reg (inst offset : Nat)
  | bus (address : Nat)
  deriving DecidableEq, Repr

/-- One access of the host: the statements of R100, each a single access (`wr64` is two `regWrite`, `cmd M` is one
`regWrite` of M's word to offset 0), the host's own accesses to external memory (R60, R100 `mem`), and the platform's
reset (R401). `bytes` is the width of the access. -/
inductive HostAccess where
  | regRead (bytes : Nat) (target : RegTarget)
  | regWrite (bytes : Nat) (target : RegTarget) (value : Word)
  | memRead (address : Address)
  | memWrite (address : Address) (value : Byte)
  | resetInstance (inst : Nat)
  | resetAll
  deriving DecidableEq, Repr

end Sys2Proof
end

