-- ==== Sys2Proof/WellFormed.lean ====
section
/-! DEFINITION. Which terms of the syntax mean something. A command has no operand (R90), so there is nothing to check
in it: every `Instr` is well formed, and every illegal word is already refused by the decoder. A host access to a
register is well formed when it has the one width and alignment R61 defines and stays in the register space (R35). -/

namespace Sys2Proof

/-- R90: no command word has an operand field that could be out of range. -/
def Instr.wellFormed : Instr → Bool
  | .mortonUnswz => true
  | .mortonSwz => true
  | .mortonAddr => true
  | .mortonIdx => true
  | .mortonRUnswz => true
  | .mortonRSwz => true
  | .mortonRAddr => true
  | .mortonRIdx => true
  | .x360Unswz => true
  | .x360Swz => true
  | .x360Addr => true
  | .ps4Unswz => true
  | .ps4Swz => true
  | .ps4Addr => true
  | .ps5Unswz => true
  | .ps5Swz => true
  | .ps5Addr => true
  | .blkUnswz => true
  | .blkSwz => true
  | .blkAddr => true
  | .n3dsUnswz => true
  | .n3dsSwz => true
  | .n3dsAddr => true
  | .pspUnswz => true
  | .pspSwz => true
  | .pspAddr => true
  | .ps28Unswz => true
  | .ps28Swz => true
  | .ps28Addr => true
  | .ps24Unswz => true
  | .ps24Swz => true
  | .ps24Addr => true
  | .ps2PalUnswz => true
  | .ps2PalSwz => true
  | .ps2PalAddr => true
  | .nswUnswz => true
  | .nswSwz => true
  | .nswAddr => true
  | .wiiuUnswz => true
  | .wiiuSwz => true
  | .wiiuAddr => true

/-- R61, R35: offset of a 32-bit register access: a multiple of 4, inside the 256 bytes. -/
def wellFormedOffset (offset : Nat) : Bool :=
  offset % 4 == 0 && decide (offset < 256)

/-- R61: a register access is 4 bytes wide, at a well-formed offset. (The offset of a bus address depends on
`TSE_BASE`; the machine checks it when it resolves the address.) -/
def RegTarget.wellFormed : RegTarget → Bool
  | .reg _ offset => wellFormedOffset offset
  | .bus _ => true

/-- R61. -/
def HostAccess.wellFormed : HostAccess → Bool
  | .regRead bytes target => bytes == 4 && target.wellFormed
  | .regWrite bytes target _ => bytes == 4 && target.wellFormed
  | .memRead _ => true
  | .memWrite _ _ => true
  | .resetInstance _ => true
  | .resetAll => true

end Sys2Proof
end

