-- ==== Sys2Proof/Decode.lean ====
section
/-! DEFINITION. The decoder of command words (spec/30_encoding.md R90 to R96) and, after it, the encoder. Both are
written from the operation codes of R92 and the functions of R93: a word is OPC in bits [7:0], FN in bits [9:8] and
zero in bits [31:10]. -/

namespace Sys2Proof

/-- Why a word is not a command: the three failing steps of R91, in order. -/
inductive DecodeError where
  /-- `c[31:10] != 0` -/
  | reservedBits
  /-- `c[7:0]` is not an operation code of R92 -/
  | unassignedOpc
  /-- `c[9:8] = 3` with an operation code other than 0x01 and 0x02 -/
  | idxUndefined
  deriving DecidableEq, Repr

/-- R90: field OPC, bits [7:0]. -/
def wordOpc (c : Word) : Nat := c.toNat % 256

/-- R90: field FN, bits [9:8]. -/
def wordFn (c : Word) : Nat := (c.toNat / 256) % 4

/-- R90: the reserved bits [31:10]. -/
def wordReserved (c : Word) : Nat := c.toNat / 1024

/-- R92: the operation code of each remapper. -/
def Remapper.code : Remapper → Nat
  | .morton => 0x01
  | .mortonR => 0x02
  | .x360 => 0x03
  | .ps4 => 0x04
  | .ps5 => 0x05
  | .blk => 0x10
  | .n3ds => 0x11
  | .psp => 0x12
  | .ps28 => 0x20
  | .ps24 => 0x21
  | .ps2Pal => 0x22
  | .nsw => 0x30
  | .wiiu => 0x40

/-- R92, read the other way; every other value is reserved. -/
def Remapper.ofCode : Nat → Option Remapper
  | 0x01 => some .morton
  | 0x02 => some .mortonR
  | 0x03 => some .x360
  | 0x04 => some .ps4
  | 0x05 => some .ps5
  | 0x10 => some .blk
  | 0x11 => some .n3ds
  | 0x12 => some .psp
  | 0x20 => some .ps28
  | 0x21 => some .ps24
  | 0x22 => some .ps2Pal
  | 0x30 => some .nsw
  | 0x40 => some .wiiu
  | _ => none

/-- R93: the value of the function field. -/
def Fn.code : Fn → Nat
  | .unswz => 0
  | .swz => 1
  | .addr => 2
  | .idx => 3

/-- R93. The field has two bits, so every value is a function. -/
def Fn.ofCode : Nat → Fn
  | 0 => .unswz
  | 1 => .swz
  | 2 => .addr
  | _ => .idx

/-- R94: the command of a remapper and a function; IDX exists only for MORTON and MORTONR (R91 step 3). -/
def commandOf : Remapper → Fn → Option Instr
  | .morton, .unswz => some .mortonUnswz
  | .morton, .swz => some .mortonSwz
  | .morton, .addr => some .mortonAddr
  | .morton, .idx => some .mortonIdx
  | .mortonR, .unswz => some .mortonRUnswz
  | .mortonR, .swz => some .mortonRSwz
  | .mortonR, .addr => some .mortonRAddr
  | .mortonR, .idx => some .mortonRIdx
  | .x360, .unswz => some .x360Unswz
  | .x360, .swz => some .x360Swz
  | .x360, .addr => some .x360Addr
  | .ps4, .unswz => some .ps4Unswz
  | .ps4, .swz => some .ps4Swz
  | .ps4, .addr => some .ps4Addr
  | .ps5, .unswz => some .ps5Unswz
  | .ps5, .swz => some .ps5Swz
  | .ps5, .addr => some .ps5Addr
  | .blk, .unswz => some .blkUnswz
  | .blk, .swz => some .blkSwz
  | .blk, .addr => some .blkAddr
  | .n3ds, .unswz => some .n3dsUnswz
  | .n3ds, .swz => some .n3dsSwz
  | .n3ds, .addr => some .n3dsAddr
  | .psp, .unswz => some .pspUnswz
  | .psp, .swz => some .pspSwz
  | .psp, .addr => some .pspAddr
  | .ps28, .unswz => some .ps28Unswz
  | .ps28, .swz => some .ps28Swz
  | .ps28, .addr => some .ps28Addr
  | .ps24, .unswz => some .ps24Unswz
  | .ps24, .swz => some .ps24Swz
  | .ps24, .addr => some .ps24Addr
  | .ps2Pal, .unswz => some .ps2PalUnswz
  | .ps2Pal, .swz => some .ps2PalSwz
  | .ps2Pal, .addr => some .ps2PalAddr
  | .nsw, .unswz => some .nswUnswz
  | .nsw, .swz => some .nswSwz
  | .nsw, .addr => some .nswAddr
  | .wiiu, .unswz => some .wiiuUnswz
  | .wiiu, .swz => some .wiiuSwz
  | .wiiu, .addr => some .wiiuAddr
  | _, .idx => none

/-- R91: decode a word written to `CMD`, in the order of its four steps. Total: every word is a command or is rejected
with the name of the step that fails. -/
def decode (c : Word) : Except DecodeError Instr :=
  if wordReserved c ≠ 0 then .error .reservedBits
  else
    match Remapper.ofCode (wordOpc c) with
    | none => .error .unassignedOpc
    | some m =>
      match commandOf m (Fn.ofCode (wordFn c)) with
      | none => .error .idxUndefined
      | some i => .ok i

/-- The remapper of a command (R92, R94). -/
def Instr.remapper : Instr → Remapper
  | .mortonUnswz => .morton
  | .mortonSwz => .morton
  | .mortonAddr => .morton
  | .mortonIdx => .morton
  | .mortonRUnswz => .mortonR
  | .mortonRSwz => .mortonR
  | .mortonRAddr => .mortonR
  | .mortonRIdx => .mortonR
  | .x360Unswz => .x360
  | .x360Swz => .x360
  | .x360Addr => .x360
  | .ps4Unswz => .ps4
  | .ps4Swz => .ps4
  | .ps4Addr => .ps4
  | .ps5Unswz => .ps5
  | .ps5Swz => .ps5
  | .ps5Addr => .ps5
  | .blkUnswz => .blk
  | .blkSwz => .blk
  | .blkAddr => .blk
  | .n3dsUnswz => .n3ds
  | .n3dsSwz => .n3ds
  | .n3dsAddr => .n3ds
  | .pspUnswz => .psp
  | .pspSwz => .psp
  | .pspAddr => .psp
  | .ps28Unswz => .ps28
  | .ps28Swz => .ps28
  | .ps28Addr => .ps28
  | .ps24Unswz => .ps24
  | .ps24Swz => .ps24
  | .ps24Addr => .ps24
  | .ps2PalUnswz => .ps2Pal
  | .ps2PalSwz => .ps2Pal
  | .ps2PalAddr => .ps2Pal
  | .nswUnswz => .nsw
  | .nswSwz => .nsw
  | .nswAddr => .nsw
  | .wiiuUnswz => .wiiu
  | .wiiuSwz => .wiiu
  | .wiiuAddr => .wiiu

/-- The function of a command (R93, R94). -/
def Instr.fn : Instr → Fn
  | .mortonUnswz => .unswz
  | .mortonSwz => .swz
  | .mortonAddr => .addr
  | .mortonIdx => .idx
  | .mortonRUnswz => .unswz
  | .mortonRSwz => .swz
  | .mortonRAddr => .addr
  | .mortonRIdx => .idx
  | .x360Unswz => .unswz
  | .x360Swz => .swz
  | .x360Addr => .addr
  | .ps4Unswz => .unswz
  | .ps4Swz => .swz
  | .ps4Addr => .addr
  | .ps5Unswz => .unswz
  | .ps5Swz => .swz
  | .ps5Addr => .addr
  | .blkUnswz => .unswz
  | .blkSwz => .swz
  | .blkAddr => .addr
  | .n3dsUnswz => .unswz
  | .n3dsSwz => .swz
  | .n3dsAddr => .addr
  | .pspUnswz => .unswz
  | .pspSwz => .swz
  | .pspAddr => .addr
  | .ps28Unswz => .unswz
  | .ps28Swz => .swz
  | .ps28Addr => .addr
  | .ps24Unswz => .unswz
  | .ps24Swz => .swz
  | .ps24Addr => .addr
  | .ps2PalUnswz => .unswz
  | .ps2PalSwz => .swz
  | .ps2PalAddr => .addr
  | .nswUnswz => .unswz
  | .nswSwz => .swz
  | .nswAddr => .addr
  | .wiiuUnswz => .unswz
  | .wiiuSwz => .swz
  | .wiiuAddr => .addr

/-- R94: "The command word is `OPC | (FN << 8)`". -/
def encode (i : Instr) : Word :=
  BitVec.ofNat 32 (i.remapper.code ||| (i.fn.code <<< 8))

/-- What the decoder reads from an instruction whose bits are `w`, as spec/opcode_table.json numbers them: the word is
written to `CMD` whole (R61, R90), so there is no byte order to choose. Bits above `nbits` are 0. -/
def decodeTableWord (nbits w : Nat) : Option Instr :=
  match decode (BitVec.ofNat 32 (w % 2 ^ nbits)) with
  | .ok i => some i
  | .error _ => none

end Sys2Proof
end

