-- ==== Sys2Proof/Machine/State.lean ====
section
/-! DEFINITION. The state of the machine as plain data: the register files of the instances (spec/10_state.md R20 to
R24), external memory (spec/20_memory.md R60), and what the host still has to do (spec/20_memory.md R77: "The only
'program' is the host's sequence of register writes"). -/

namespace Sys2Proof.Machine

open Sys2Proof

/-- The 36 read/write parameter registers of R24, in the order of its table. -/
structure Params where
  /-- `WIDTH`, offset 0x020 -/
  width : Word
  /-- `HEIGHT`, offset 0x024 -/
  height : Word
  /-- `BPP`, offset 0x028 -/
  bpp : Word
  /-- `BLOCK_W`, offset 0x02C -/
  blockW : Word
  /-- `BLOCK_H`, offset 0x030 -/
  blockH : Word
  /-- `BLOCK_BYTES`, offset 0x034 -/
  blockBytes : Word
  /-- `SRC_BASE_LO`, offset 0x040 -/
  srcBaseLo : Word
  /-- `SRC_BASE_HI`, offset 0x044 -/
  srcBaseHi : Word
  /-- `SRC_LEN_LO`, offset 0x048 -/
  srcLenLo : Word
  /-- `SRC_LEN_HI`, offset 0x04C -/
  srcLenHi : Word
  /-- `DST_BASE_LO`, offset 0x050 -/
  dstBaseLo : Word
  /-- `DST_BASE_HI`, offset 0x054 -/
  dstBaseHi : Word
  /-- `DST_CAP_LO`, offset 0x058 -/
  dstCapLo : Word
  /-- `DST_CAP_HI`, offset 0x05C -/
  dstCapHi : Word
  /-- `COORD_X`, offset 0x060 -/
  coordX : Word
  /-- `COORD_Y`, offset 0x064 -/
  coordY : Word
  /-- `COORD_T`, offset 0x068 -/
  coordT : Word
  /-- `PS2_SWIZZLE_TYPE`, offset 0x080 -/
  ps2SwizzleType : Word
  /-- `PAL_ENTRY_BYTES`, offset 0x084 -/
  palEntryBytes : Word
  /-- `TILE_W`, offset 0x088 -/
  tileW : Word
  /-- `TILE_H`, offset 0x08C -/
  tileH : Word
  /-- `SWAP_UNIT`, offset 0x090 -/
  swapUnit : Word
  /-- `GOB_BLOCK_H`, offset 0x094 -/
  gobBlockH : Word
  /-- `WIDTH_PAD`, offset 0x098 -/
  widthPad : Word
  /-- `HEIGHT_PAD`, offset 0x09C -/
  heightPad : Word
  /-- `WIIU_FORMAT`, offset 0x0A0 -/
  wiiuFormat : Word
  /-- `WIIU_TILE_MODE`, offset 0x0A4 -/
  wiiuTileMode : Word
  /-- `WIIU_PITCH`, offset 0x0A8 -/
  wiiuPitch : Word
  /-- `WIIU_SWIZZLE`, offset 0x0AC -/
  wiiuSwizzle : Word
  /-- `WIIU_AA`, offset 0x0B0 -/
  wiiuAa : Word
  /-- `WIIU_SLICE`, offset 0x0B4 -/
  wiiuSlice : Word
  /-- `WIIU_SAMPLE`, offset 0x0B8 -/
  wiiuSample : Word
  /-- `WIIU_NUM_SLICES`, offset 0x0BC -/
  wiiuNumSlices : Word
  /-- `WIIU_SURF_HEIGHT`, offset 0x0C0 -/
  wiiuSurfHeight : Word
  /-- `WIIU_SURF_SIZE_LO`, offset 0x0C4 -/
  wiiuSurfSizeLo : Word
  /-- `WIIU_SURF_SIZE_HI`, offset 0x0C8 -/
  wiiuSurfSizeHi : Word
  deriving DecidableEq, Repr

/-- The read-only registers of R24 (R26, R27, R28), which only command completion writes (R9, R22). -/
structure Results where
  /-- `STATUS`, offset 0x004 -/
  status : Word
  /-- `OUT_LEN_LO`, offset 0x008 -/
  outLenLo : Word
  /-- `OUT_LEN_HI`, offset 0x00C -/
  outLenHi : Word
  /-- `RESULT_LO`, offset 0x010 -/
  resultLo : Word
  /-- `RESULT_HI`, offset 0x014 -/
  resultHi : Word
  deriving DecidableEq, Repr

/-- The register file of one instance: all of its state (R20). `CMD` keeps no value (R25), so it is no field. -/
structure RegFile where
  params : Params
  results : Results
  deriving DecidableEq, Repr

/-- The names of the parameter registers (R24). -/
inductive ParamReg where
  | width
  | height
  | bpp
  | blockW
  | blockH
  | blockBytes
  | srcBaseLo
  | srcBaseHi
  | srcLenLo
  | srcLenHi
  | dstBaseLo
  | dstBaseHi
  | dstCapLo
  | dstCapHi
  | coordX
  | coordY
  | coordT
  | ps2SwizzleType
  | palEntryBytes
  | tileW
  | tileH
  | swapUnit
  | gobBlockH
  | widthPad
  | heightPad
  | wiiuFormat
  | wiiuTileMode
  | wiiuPitch
  | wiiuSwizzle
  | wiiuAa
  | wiiuSlice
  | wiiuSample
  | wiiuNumSlices
  | wiiuSurfHeight
  | wiiuSurfSizeLo
  | wiiuSurfSizeHi
  deriving DecidableEq, Repr

/-- The names of all registers of R24. -/
inductive Reg where
  | cmd
  | status
  | outLenLo
  | outLenHi
  | resultLo
  | resultHi
  | param (p : ParamReg)
  deriving DecidableEq, Repr

/-- An error a command can end in, as R9 writes it: `raise InvalidGeometry(d)`, `raise UnsupportedParameter(d)`,
`raise OutOfBoundsAccess(d)` with the detail code `d` of R372. -/
inductive CmdError where
  /-- InvalidGeometry -/
  | ig (detail : BitVec 8)
  /-- UnsupportedParameter -/
  | up (detail : BitVec 8)
  /-- OutOfBoundsAccess -/
  | oob (detail : BitVec 8)
  deriving DecidableEq, Repr

/-- How a command ends (R4): in an error, with the value an `.ADDR` or `.IDX` leaves in `RESULT`, or with the output
bytes a `.SWZ` or `.UNSWZ` writes to the destination. -/
inductive CmdResult where
  | error (e : CmdError)
  | value (v : Nat)
  | output (bytes : List Byte)
  deriving DecidableEq, Repr

/-- External memory (R60): the bytes that differ from what an unlisted address reads as, by rising address. -/
abbrev Memory := List Host.Cell

/-- What the last host access answered. The model's own field. -/
inductive Answer where
  | none
  | word (v : Word)
  | byte (v : Byte)
  deriving DecidableEq, Repr

/-- The whole machine. `regs`, `others` and `mem` are what the spec gives it; `selected`, `pending` and `answer` are the
model's own: which instance the access at hand addresses, what the host has still to do, and what it was last told. -/
structure State where
  /-- the register file of the addressed instance (R20) -/
  regs : RegFile
  /-- the number of that instance (R390: instances are told apart by their `TSE_BASE`) -/
  selected : Nat
  /-- the register files of the other instances, in order of number (R390) -/
  others : List RegFile
  /-- external memory, shared by the host and all instances (R35, R60) -/
  mem : Memory
  /-- the host's accesses still to come, the next one first (R21, R77) -/
  pending : List HostAccess
  /-- what the last access answered (R61) -/
  answer : Answer
  deriving DecidableEq, Repr

/-- Why the machine stops with a fault: an access to an address at which the spec places no register. No command faults:
the spec's errors end a command in a completed state (R4, R381, R382). Safe: the hardware gives such an access no
meaning, and the model goes no further. -/
inductive Fault where
  /-- Raised by a register access or an instance reset: no instance has that number, or none has a register space
  that holds that bus address (R20, R79, R390). Safe. -/
  | noSuchInstance
  /-- Raised by a register access: the offset lies outside the 256 bytes of the register space (R20, R35). Safe. -/
  | outsideRegisterSpace
  deriving DecidableEq, Repr

/-- Why the model refuses a step. R61: "An access of another width, or at an offset not a multiple of 4, has no meaning
in this spec. The model refuses it". -/
inductive Refusal where
  /-- Raised by `exec` for an instruction without a meaning; no arm does. Safe. -/
  | notModelled (mnemonic : String)
  /-- Raised by a register access of another width than 32 bits (R61). Safe. -/
  | accessWidth
  /-- Raised by a register access at an offset that is not a multiple of 4 (R61). Safe. -/
  | accessAlignment
  deriving DecidableEq, Repr

/-- R400: every parameter register holds 0 after reset. -/
def Params.reset : Params :=
  ⟨0, 0, 0, 0, 0, 0, 0, 0, 0, 0, 0, 0,
    0, 0, 0, 0, 0, 0, 0, 0, 0, 0, 0, 0,
    0, 0, 0, 0, 0, 0, 0, 0, 0, 0, 0, 0⟩

/-- R400: `STATUS`, `OUT_LEN` and `RESULT` are 0 after reset. -/
def Results.reset : Results := ⟨0, 0, 0, 0, 0⟩

/-- R400: an instance after reset. -/
def RegFile.reset : RegFile := ⟨Params.reset, Results.reset⟩

/-- The machine right after reset (R400): every register of every instance 0. Memory is not TSE state and R400 says
nothing of its value: nothing is listed (log entry 1). The host has done nothing yet and nothing is placed in
`pending` (log entry 2); instance 0 is the one first addressed. -/
def State.reset : State :=
  { regs := RegFile.reset
    selected := 0
    others := List.replicate Config.otherInstances RegFile.reset
    mem := []
    pending := []
    answer := .none }

end Sys2Proof.Machine
end

