-- ==== Sys2Proof/Machine/Arith.lean ====
section
/-! DEFINITION. The operators of spec/00_scope.md R8 on natural numbers (R7: every value in pseudocode is an unbounded
natural, and nothing wraps). `a // b`, `a % b`, `&`, `|`, `^`, `<<`, `>>` are Lean's `/`, `%`, `&&&`, `|||`, `^^^`,
`<<<`, `>>>` on `Nat`. -/

namespace Sys2Proof.Machine

/-- `ceil(a, b)` = `(a + b - 1) // b` (R8). -/
def ceilDiv (a b : Nat) : Nat := (a + b - 1) / b

/-- `roundup(a, b)` = `ceil(a, b) * b` (R8). -/
def roundUp (a b : Nat) : Nat := ceilDiv a b * b

/-- `bit(a, i)` = `(a >> i) & 1` (R8). -/
def bitAt (a i : Nat) : Nat := (a >>> i) &&& 1

/-- `bits[hi:lo]` of `v` (R8). -/
def bitsAt (v hi lo : Nat) : Nat := (v >>> lo) % 2 ^ (hi - lo + 1)

/-- `a & ~m`: clears the bits of `m` in `a` (R8). -/
def clearBits (a m : Nat) : Nat := a - (a &&& m)

/-- `pow2(n)`: `n = 2^k` for some `k >= 0` (R8). -/
def isPow2 (n : Nat) : Bool := n == 2 ^ n.log2

end Sys2Proof.Machine
end

