-- ==== Sys2Proof/Machine/Flags.lean ====
section
/-! DEFINITION. The machine's only flags: the fields of `STATUS` (spec/10_state.md R22, R26) and the words a completed
command leaves in it (spec/60_exceptions.md R371, R380, R381). -/

namespace Sys2Proof.Machine

/-- `STATUS[0]`, DONE (R26). -/
def statusDone (v : Word) : Nat := bitsAt v.toNat 0 0

/-- `STATUS[1]`, ERR (R26). -/
def statusErr (v : Word) : Nat := bitsAt v.toNat 1 1

/-- `STATUS[5:4]`, ECLASS (R26). -/
def statusEclass (v : Word) : Nat := bitsAt v.toNat 5 4

/-- `STATUS[15:8]`, EDETAIL (R26). -/
def statusEdetail (v : Word) : Nat := bitsAt v.toNat 15 8

/-- R371: the class code of an error. -/
def CmdError.eclass : CmdError → Nat
  | .ig _ => 1
  | .up _ => 2
  | .oob _ => 3

/-- R372: the detail code of an error. -/
def CmdError.edetail : CmdError → Nat
  | .ig d => d.toNat
  | .up d => d.toNat
  | .oob d => d.toNat

/-- R380: `STATUS` after a successful command: DONE = 1, all else 0. -/
def statusOk : Word := 1

/-- R381: `STATUS` after an error of class `c` and detail `d` is `0x3 | (c << 4) | (d << 8)`. -/
def statusError (e : CmdError) : Word :=
  BitVec.ofNat 32 (0x3 ||| (e.eclass <<< 4) ||| (e.edetail <<< 8))

end Sys2Proof.Machine
end

