-- ==== Sys2Proof/Machine/Ops.lean ====
section
/-! DEFINITION. The named operations over memory, registers and instances, and the completion of a command.
`State.complete` is the one shared operation that ends every command: with success (spec/60_exceptions.md R380), or by
RAISING AN ERROR (R381). R382 and R383: an error transfers no control, so there is no vector, saved pc or mode to write
and no return from it. -/

namespace Sys2Proof.Machine

/-! ## External memory (R60) -/

/-- What an address that nothing has written reads as (log entry 1). -/
def unlistedByte : Byte := 0

/-- The canonical form of memory: addresses strictly rising, below 2^64, and no entry equal to what an unlisted address
reads as. -/
abbrev Memory.wf (m : Memory) : Prop :=
  m.Pairwise (fun c d => c.1 < d.1) ∧ ∀ c ∈ m, c.2 ≠ unlistedByte ∧ c.1 < 2 ^ 64

/-- The byte at an address (R60: a read "returns the last value written"). -/
def Memory.read : Memory → Nat → Byte
  | [], _ => unlistedByte
  | (b, v) :: m, a => if a = b then v else Memory.read m a

/-- `MemRead(addr, n)`: the `n` bytes from `addr`, in address order (R9). -/
def Memory.readBytes (m : Memory) (a n : Nat) : List Byte :=
  (List.range n).map fun i => m.read (a + i)

/-- The entries for bytes stored from address `a` on: none for a byte an unlisted address reads as. -/
def Memory.cellsFrom (a : Nat) : List Byte → Memory
  | [] => []
  | b :: bs => if b = unlistedByte then Memory.cellsFrom (a + 1) bs else (a, b) :: Memory.cellsFrom (a + 1) bs

/-- `MemWrite(addr, n, v)`: store a byte sequence from `addr` on, and nothing else (R9, R63). -/
def Memory.writeBytes (m : Memory) (a : Nat) (bs : List Byte) : Memory :=
  m.filter (fun c => decide (c.1 < a)) ++ Memory.cellsFrom a bs
    ++ m.filter (fun c => decide (a + bs.length ≤ c.1))

/-! ## Registers (R24, R34) -/

/-- The value of a parameter register. -/
def Params.get (p : Params) : ParamReg → Word
  | .width => p.width
  | .height => p.height
  | .bpp => p.bpp
  | .blockW => p.blockW
  | .blockH => p.blockH
  | .blockBytes => p.blockBytes
  | .srcBaseLo => p.srcBaseLo
  | .srcBaseHi => p.srcBaseHi
  | .srcLenLo => p.srcLenLo
  | .srcLenHi => p.srcLenHi
  | .dstBaseLo => p.dstBaseLo
  | .dstBaseHi => p.dstBaseHi
  | .dstCapLo => p.dstCapLo
  | .dstCapHi => p.dstCapHi
  | .coordX => p.coordX
  | .coordY => p.coordY
  | .coordT => p.coordT
  | .ps2SwizzleType => p.ps2SwizzleType
  | .palEntryBytes => p.palEntryBytes
  | .tileW => p.tileW
  | .tileH => p.tileH
  | .swapUnit => p.swapUnit
  | .gobBlockH => p.gobBlockH
  | .widthPad => p.widthPad
  | .heightPad => p.heightPad
  | .wiiuFormat => p.wiiuFormat
  | .wiiuTileMode => p.wiiuTileMode
  | .wiiuPitch => p.wiiuPitch
  | .wiiuSwizzle => p.wiiuSwizzle
  | .wiiuAa => p.wiiuAa
  | .wiiuSlice => p.wiiuSlice
  | .wiiuSample => p.wiiuSample
  | .wiiuNumSlices => p.wiiuNumSlices
  | .wiiuSurfHeight => p.wiiuSurfHeight
  | .wiiuSurfSizeLo => p.wiiuSurfSizeLo
  | .wiiuSurfSizeHi => p.wiiuSurfSizeHi

/-- R34: an RW register holds the last value written to it, over all 32 bits. -/
def Params.set (p : Params) (r : ParamReg) (v : Word) : Params :=
  match r with
  | .width => { p with width := v }
  | .height => { p with height := v }
  | .bpp => { p with bpp := v }
  | .blockW => { p with blockW := v }
  | .blockH => { p with blockH := v }
  | .blockBytes => { p with blockBytes := v }
  | .srcBaseLo => { p with srcBaseLo := v }
  | .srcBaseHi => { p with srcBaseHi := v }
  | .srcLenLo => { p with srcLenLo := v }
  | .srcLenHi => { p with srcLenHi := v }
  | .dstBaseLo => { p with dstBaseLo := v }
  | .dstBaseHi => { p with dstBaseHi := v }
  | .dstCapLo => { p with dstCapLo := v }
  | .dstCapHi => { p with dstCapHi := v }
  | .coordX => { p with coordX := v }
  | .coordY => { p with coordY := v }
  | .coordT => { p with coordT := v }
  | .ps2SwizzleType => { p with ps2SwizzleType := v }
  | .palEntryBytes => { p with palEntryBytes := v }
  | .tileW => { p with tileW := v }
  | .tileH => { p with tileH := v }
  | .swapUnit => { p with swapUnit := v }
  | .gobBlockH => { p with gobBlockH := v }
  | .widthPad => { p with widthPad := v }
  | .heightPad => { p with heightPad := v }
  | .wiiuFormat => { p with wiiuFormat := v }
  | .wiiuTileMode => { p with wiiuTileMode := v }
  | .wiiuPitch => { p with wiiuPitch := v }
  | .wiiuSwizzle => { p with wiiuSwizzle := v }
  | .wiiuAa => { p with wiiuAa := v }
  | .wiiuSlice => { p with wiiuSlice := v }
  | .wiiuSample => { p with wiiuSample := v }
  | .wiiuNumSlices => { p with wiiuNumSlices := v }
  | .wiiuSurfHeight => { p with wiiuSurfHeight := v }
  | .wiiuSurfSizeLo => { p with wiiuSurfSizeLo := v }
  | .wiiuSurfSizeHi => { p with wiiuSurfSizeHi := v }

/-- The register map of R24: the registers by rising offset from `TSE_BASE`. -/
def registerMap : List (Nat × Reg) :=
  [(0x000, .cmd), (0x004, .status), (0x008, .outLenLo), (0x00C, .outLenHi), (0x010, .resultLo), (0x014, .resultHi)]
  ++ [(0x020, .param .width), (0x024, .param .height), (0x028, .param .bpp), (0x02C, .param .blockW), (0x030, .param .blockH), (0x034, .param .blockBytes)]
  ++ [(0x040, .param .srcBaseLo), (0x044, .param .srcBaseHi), (0x048, .param .srcLenLo), (0x04C, .param .srcLenHi), (0x050, .param .dstBaseLo), (0x054, .param .dstBaseHi)]
  ++ [(0x058, .param .dstCapLo), (0x05C, .param .dstCapHi), (0x060, .param .coordX), (0x064, .param .coordY), (0x068, .param .coordT), (0x080, .param .ps2SwizzleType)]
  ++ [(0x084, .param .palEntryBytes), (0x088, .param .tileW), (0x08C, .param .tileH), (0x090, .param .swapUnit), (0x094, .param .gobBlockH), (0x098, .param .widthPad)]
  ++ [(0x09C, .param .heightPad), (0x0A0, .param .wiiuFormat), (0x0A4, .param .wiiuTileMode), (0x0A8, .param .wiiuPitch), (0x0AC, .param .wiiuSwizzle), (0x0B0, .param .wiiuAa)]
  ++ [(0x0B4, .param .wiiuSlice), (0x0B8, .param .wiiuSample), (0x0BC, .param .wiiuNumSlices), (0x0C0, .param .wiiuSurfHeight), (0x0C4, .param .wiiuSurfSizeLo), (0x0C8, .param .wiiuSurfSizeHi)]

/-- The register at an offset; `none` at a reserved offset (R34). -/
def regAt (offset : Nat) : Option Reg := registerMap.lookup offset

/-- What a register reads as: `CMD` reads 0 at all times (R25). -/
def RegFile.readReg (f : RegFile) : Reg → Word
  | .cmd => 0
  | .status => f.results.status
  | .outLenLo => f.results.outLenLo
  | .outLenHi => f.results.outLenHi
  | .resultLo => f.results.resultLo
  | .resultHi => f.results.resultHi
  | .param p => f.params.get p

/-- A host write to a register other than `CMD`: an RW register takes the value; the read-only registers ignore it
(R26, R27, R28, R34). A write to `CMD` leaves nothing in the register file itself; the command it starts is
`hostAccess`'s. -/
def RegFile.writeReg (f : RegFile) (r : Reg) (v : Word) : RegFile :=
  match r with
  | .cmd => f
  | .status => f
  | .outLenLo => f
  | .outLenHi => f
  | .resultLo => f
  | .resultHi => f
  | .param p => { f with params := f.params.set p v }

/-- What an offset reads as: the register there, or 0 where the offset is reserved (R34). -/
def RegFile.readOffset (f : RegFile) (offset : Nat) : Word :=
  match regAt offset with
  | some r => f.readReg r
  | none => 0

/-- A host write at an offset other than `CMD`'s; it is ignored where the offset is reserved (R34). -/
def RegFile.writeOffset (f : RegFile) (offset : Nat) (v : Word) : RegFile :=
  match regAt offset with
  | some r => f.writeReg r v
  | none => f

/-! ## Instances (R20, R390) -/

/-- The register files of all instances, by number. -/
def State.instances (s : State) : List RegFile :=
  s.others.take s.selected ++ s.regs :: s.others.drop s.selected

/-- `N_INSTANCES` of this system. -/
def State.instanceCount (s : State) : Nat := s.others.length + 1

/-- Address instance `k`: its registers become `regs`, and nothing else changes; `none` where there is no instance `k`. -/
def State.select (s : State) (k : Nat) : Option State :=
  if k = s.selected then some s
  else
    match s.instances[k]? with
    | some f => some { s with regs := f, others := s.instances.eraseIdx k, selected := k }
    | none => none

/-- Where an access points: the instance and the offset in its register space. A bus address belongs to the instance
whose 256 bytes from `TSE_BASE` on hold it (R20, R79). -/
def resolveTarget (count : Nat) : RegTarget → Option (Nat × Nat)
  | .reg k offset => some (k, offset)
  | .bus a =>
    (List.range count).findSome? fun k =>
      if Config.tseBase k ≤ a ∧ a < Config.tseBase k + 256 then some (k, a - Config.tseBase k) else none

/-- R401: the platform's reset of the addressed instance. Memory is not touched (R400). -/
def State.resetSelected (s : State) : State := { s with regs := RegFile.reset }

/-- R401: the platform's reset of all instances together. -/
def State.resetEvery (s : State) : State :=
  { s with regs := RegFile.reset, others := s.others.map fun _ => RegFile.reset }

/-! ## Completion of a command -/

/-- The low half of a 64-bit register pair (R7). -/
def loHalf (v : Nat) : Word := BitVec.ofNat 32 v

/-- The high half of a 64-bit register pair (R7). -/
def hiHalf (v : Nat) : Word := BitVec.ofNat 32 (v / 2 ^ 32)

/-- A 64-bit quantity held in two registers is `X_HI * 2^32 + X_LO` (R7). -/
def pair (hi lo : Word) : Nat := hi.toNat * 2 ^ 32 + lo.toNat

/-- The result registers with these values of `STATUS`, `OUT_LEN` and `RESULT`. -/
def Results.of (status : Word) (outLen result : Nat) : Results :=
  ⟨status, loHalf outLen, hiHalf outLen, loHalf result, hiHalf result⟩

/-- The address of the destination buffer, `x[DST_BASE]` (R31). -/
def Params.dstBase (p : Params) : Nat := pair p.dstBaseHi p.dstBaseLo

/-- RAISING AN ERROR, R381: `STATUS` holds the class and the detail code, `OUT_LEN` and `RESULT` are 0, and nothing else
of the state changes. Control stays with the host (R382). -/
def State.raise (s : State) (e : CmdError) : State :=
  { s with regs := { s.regs with results := Results.of (statusError e) 0 0 } }

/-- R380 for an `.ADDR` or `.IDX`: `RESULT` is the value, `OUT_LEN` 0, `STATUS` DONE. -/
def State.succeedValue (s : State) (v : Nat) : State :=
  { s with regs := { s.regs with results := Results.of statusOk 0 v } }

/-- R380 and R63 for a `.SWZ` or `.UNSWZ`: the output bytes are stored from `DST_BASE` on and `OUT_LEN` is their number,
in the same step; `RESULT` is 0. -/
def State.succeedOutput (s : State) (out : List Byte) : State :=
  { s with
    regs := { s.regs with results := Results.of statusOk out.length 0 }
    mem := s.mem.writeBytes s.regs.params.dstBase out }

/-- The end of a command (R4, R70, R380, R381). -/
def State.complete (s : State) : CmdResult → State
  | .error e => s.raise e
  | .value v => s.succeedValue v
  | .output out => s.succeedOutput out

/-- R91: the error each failing step of the decoder ends the command with. -/
def decodeErrorCode : DecodeError → CmdError
  | .reservedBits => .up 0x01
  | .unassignedOpc => .up 0x02
  | .idxUndefined => .up 0x03

end Sys2Proof.Machine
end

