-- ==== Sys2Proof/Machine/Operands.lean ====
section
/-! DEFINITION. The operands of commands: the register pairs and bit fields (spec/30_encoding.md R97, spec/10_state.md
R31, R33), the unit geometry (spec/40_remap_contract.md R122), and the checks several families share (R126, R372). Every
operand is read as an unsigned number; none is sign-extended, scaled or shifted when read (R97). -/

namespace Sys2Proof.Machine

/-- `x[SRC_BASE]` (R31). -/
def Params.srcBase (p : Params) : Nat := pair p.srcBaseHi p.srcBaseLo

/-- `x[SRC_LEN]` (R31). -/
def Params.srcLen (p : Params) : Nat := pair p.srcLenHi p.srcLenLo

/-- `x[DST_CAP]` (R31). -/
def Params.dstCap (p : Params) : Nat := pair p.dstCapHi p.dstCapLo

/-- `x[WIIU_SURF_SIZE]` (R33). -/
def Params.surfSize (p : Params) : Nat := pair p.wiiuSurfSizeHi p.wiiuSurfSizeLo

/-- R33: `WIIU_FORMAT[5:0]`, HWFMT; bits [31:6] are ignored. -/
def Params.hwFmt (p : Params) : Nat := bitsAt p.wiiuFormat.toNat 5 0

/-- R33: `WIIU_SWIZZLE[8]`, PIPE_SW. -/
def Params.pipeSw (p : Params) : Nat := bitsAt p.wiiuSwizzle.toNat 8 8

/-- R33: `WIIU_SWIZZLE[10:9]`, BANK_SW. -/
def Params.bankSw (p : Params) : Nat := bitsAt p.wiiuSwizzle.toNat 10 9

/-- The source bytes: the `SRC_LEN` bytes from `SRC_BASE`, read whole at the start of the command (R62). -/
def State.source (s : State) : List Byte :=
  s.mem.readBytes s.regs.params.srcBase s.regs.params.srcLen

/-! ## Unit geometry (R122) -/

/-- `w`: the image width in units. -/
def Params.unitsW (p : Params) : Nat := ceilDiv p.width.toNat p.blockW.toNat

/-- `h`: the image height in units. -/
def Params.unitsH (p : Params) : Nat := ceilDiv p.height.toNat p.blockH.toNat

/-- `B`: the unit size in bytes. -/
def Params.unitBytes (p : Params) : Nat := p.blockBytes.toNat

/-! ## Checks (R126) -/

/-- One check of a command: whether it fails, and the error it then raises. -/
structure Check where
  fails : Bool
  err : CmdError
  deriving DecidableEq, Repr

/-- R126, R374: "The first failing check ends the command with its error", and no later check runs. -/
def firstError : List Check → Option CmdError
  | [] => none
  | c :: cs => if c.fails then some c.err else firstError cs

/-- IG 0x01: `WIDTH = 0` or `HEIGHT = 0` (R29, R122, R372). -/
def checkSize (p : Params) : Check :=
  ⟨p.width.toNat == 0 || p.height.toNat == 0, .ig 0x01⟩

/-- IG 0x02: `BLOCK_W`, `BLOCK_H` or `BLOCK_BYTES` is 0 (R30, R122, R372). -/
def checkBlock (p : Params) : Check :=
  ⟨p.blockW.toNat == 0 || p.blockH.toNat == 0 || p.blockBytes.toNat == 0, .ig 0x02⟩

/-- R65: the source range and the output range are not empty and share a byte. -/
def rangesShare (srcBase srcLen dstBase outLen : Nat) : Bool :=
  decide (0 < outLen) && decide (0 < srcLen) && decide (srcBase < dstBase + outLen)
    && decide (dstBase < srcBase + srcLen)

/-- Stage 4 of R126: IG 0x10 (R128), 0x11 (R66), 0x12 (R64), 0x13 (R65), in this order. -/
def bufferChecks (p : Params) (srcLen outLen : Nat) : List Check :=
  [⟨p.srcLen != srcLen, .ig 0x10⟩,
   ⟨decide (p.dstCap < outLen), .ig 0x11⟩,
   ⟨decide (2 ^ 64 < p.srcBase + p.srcLen) || decide (2 ^ 64 < p.dstBase + outLen), .ig 0x12⟩,
   ⟨rangesShare p.srcBase p.srcLen p.dstBase outLen, .ig 0x13⟩]

end Sys2Proof.Machine
end

