-- ==== Sys2Proof/Machine/Remap.lean ====
section
/-! DEFINITION. The common remap contract (spec/40_remap_contract.md): layouts, the generic `.UNSWZ`, `.SWZ` and `.ADDR`,
and the run-time range test. Units are named by their position `lin(u)` in linear order, 0 to `len(U) - 1` (R120), so that
the domain of a layout is its number of units. The buffers are lists of elements: bytes, or 4-bit texels for the PS2 4-bit
family (R10, R270). -/

namespace Sys2Proof.Machine

/-- A layout (R120). -/
structure Layout where
  /-- `len(U)` -/
  count : Nat
  /-- `B`: the size of a unit, in elements of the buffer -/
  unit : Nat
  /-- `A(u)` of the unit at linear position `i` -/
  addr : Nat → Nat
  /-- `Lswz` -/
  swzLen : Nat

/-- `Llin = len(U) * B` (R120). -/
def Layout.linLen (lay : Layout) : Nat := lay.count * lay.unit

/-- The layout of a `w` by `h` image: R122's domain is row-major, so the unit at position `i` is `(i % w, i // w)`. -/
def gridLayout (w h B swzLen : Nat) (A : Nat → Nat → Nat) : Layout :=
  { count := w * h, unit := B, addr := fun i => A (i % w) (i / w), swzLen := swzLen }

/-- `buf[i : i+n]` (R10). -/
def slice {α : Type} (zero : α) (buf : List α) (i n : Nat) : List α :=
  (List.range n).map fun k => buf.getD (i + k) zero

/-- `buf[i : i+n] <- vs` (R10): the buffer with `vs` in place of its elements from position `i` on. -/
def splice {α : Type} : List α → Nat → List α → List α
  | [], _, _ => []
  | b :: buf, 0, [] => b :: buf
  | _ :: buf, 0, v :: vs => v :: splice buf 0 vs
  | b :: buf, i + 1, vs => b :: splice buf i vs

/-- The loop of R123: the output holds, in linear order, each unit's elements from where the layout keeps them. -/
def unswizzle {α : Type} (zero : α) (lay : Layout) (src : List α) : List α :=
  (List.range lay.count).flatMap fun i => slice zero src (lay.addr i) lay.unit

/-- The loop of R124: the output starts as zeros (R127), and each unit's elements go where the layout keeps them. -/
def swizzle {α : Type} (zero : α) (lay : Layout) (src : List α) : List α :=
  (List.range lay.count).foldl
    (fun out i => splice out (lay.addr i) (slice zero src (i * lay.unit) lay.unit))
    (List.replicate lay.swzLen zero)

/-- The end of a `.SWZ` or `.UNSWZ` whose checks have run: the first error, or the output (R126, R135). -/
def remapResult (checks : List Check) (out : List Byte) : CmdResult :=
  match firstError checks with
  | some e => .error e
  | none => .output out

/-- Generic `.UNSWZ` (R123), after the family's checks and the buffer checks (R126, R128). -/
def genericUnswz (s : State) (family : List Check) (lay : Layout) : CmdResult :=
  remapResult (family ++ bufferChecks s.regs.params lay.swzLen lay.linLen) (unswizzle 0 lay s.source)

/-- Generic `.SWZ` (R124), after the family's checks and the buffer checks (R126, R128). -/
def genericSwz (s : State) (family : List Check) (lay : Layout) : CmdResult :=
  remapResult (family ++ bufferChecks s.regs.params lay.linLen lay.swzLen) (swizzle 0 lay s.source)

/-- The end of an `.ADDR` whose checks have run: the first error, or the value (R125, R126). -/
def valueResult (checks : List Check) (v : Nat) : CmdResult :=
  match firstError checks with
  | some e => .error e
  | none => .value v

/-- The checks of stage 3 of R126 that an `.ADDR` has beside its family's: IG 0x0A where the unit is not in the domain,
then IG 0x0B where its address does not fit 64 bits (R125, R372, R374). -/
def addrChecks (inDomain : Bool) (a : Nat) : List Check :=
  [⟨!inDomain, .ig 0x0A⟩, ⟨decide (2 ^ 64 ≤ a), .ig 0x0B⟩]

/-- The end of an `.ADDR` (R125): the family's checks, IG 0x0A, IG 0x0B; else the address. -/
def addrResult (family : List Check) (inDomain : Bool) (a : Nat) : CmdResult :=
  valueResult (family ++ addrChecks inDomain a) a

/-- Generic `.ADDR` (R125) over a `w` by `h` domain, at `(COORD_X, COORD_Y)`. -/
def genericAddr (p : Params) (family : List Check) (w h : Nat) (A : Nat → Nat → Nat) : CmdResult :=
  addrResult family (decide (p.coordX.toNat < w) && decide (p.coordY.toNat < h)) (A p.coordX.toNat p.coordY.toNat)

/-- Every unit's range ends inside the swizzled buffer (R121 placement, tested by R134 and R336). -/
def Layout.placedTest (lay : Layout) : Bool :=
  (List.range lay.count).all fun i => decide (lay.addr i + lay.unit ≤ lay.swzLen)

/-- No two units' ranges overlap (R121 disjointness, tested by R134 and R336). -/
def Layout.apartTest (lay : Layout) : Bool :=
  (List.range lay.count).all fun i => (List.range i).all fun j =>
    decide (lay.addr i + lay.unit ≤ lay.addr j) || decide (lay.addr j + lay.unit ≤ lay.addr i)

end Sys2Proof.Machine
end

