-- ==== Sys2Proof/Machine/MortonIndex.lean ====
section
/-! DEFINITION. The Morton index calculator (spec/41_morton_index.md): the index `MIDX`, its rotated variant `MIDXR`,
their inverses `ILV` and `ILVR`, and the commands `MORTON.IDX` and `MORTONR.IDX`. -/

namespace Sys2Proof.Machine

/-- One dimension of the loop of R150: what remains of it (`cw`, `ch`), the weight of its next bit (`nx`, `ny`) and its
accumulator (`xa`, `ya`). -/
structure Axis where
  left : Nat
  weight : Nat
  acc : Nat
  deriving DecidableEq, Repr

/-- One `if` block of the loop body of R150: while more than one unit remains, the low bit of `t` goes to the accumulator
and the dimension is halved, rounding down. -/
def Axis.take (a : Axis) (t : Nat) : Axis × Nat :=
  if 1 < a.left then (⟨a.left >>> 1, a.weight * 2, a.acc + a.weight * (t &&& 1)⟩, t >>> 1) else (a, t)

/-- The loop of R150 with its two blocks in this order. An iteration with nothing left in either dimension changes
nothing, so the loop is run for a number of iterations that suffices. -/
def dealBits : Nat → Axis → Axis → Nat → Axis × Axis
  | 0, a, b, _ => (a, b)
  | n + 1, a, b, t =>
    let ra := a.take t
    let rb := b.take ra.2
    dealBits n ra.1 rb.1 rb.2

/-- Iterations that suffice: each dimension `n` can be halved `floor(log2 n)` times (R154). -/
def mortonSteps (W H : Nat) : Nat := W.log2 + H.log2

/-- `MIDX(t, W, H)` (R150): x takes a bit first. -/
def midx (t W H : Nat) : Nat :=
  let r := dealBits (mortonSteps W H) ⟨W, 1, 0⟩ ⟨H, 1, 0⟩ t
  r.2.acc * W + r.1.acc

/-- `MIDXR(t, W, H)` (R151): the two blocks exchanged, y takes a bit first. -/
def midxr (t W H : Nat) : Nat :=
  let r := dealBits (mortonSteps W H) ⟨H, 1, 0⟩ ⟨W, 1, 0⟩ t
  r.1.acc * W + r.2.acc

/-- One coordinate in the loop of R152: what remains of the dimension, and the bits of the coordinate not yet placed. -/
structure Feed where
  left : Nat
  bits : Nat
  deriving DecidableEq, Repr

/-- The position built so far in the loop of R152: `t`, and the place `k` of its next bit. -/
structure Built where
  t : Nat
  k : Nat
  deriving DecidableEq, Repr

/-- One `if` block of the loop body of R152. -/
def Feed.put (f : Feed) (p : Built) : Feed × Built :=
  if 1 < f.left then (⟨f.left >>> 1, f.bits >>> 1⟩, ⟨p.t ||| ((f.bits &&& 1) <<< p.k), p.k + 1⟩) else (f, p)

/-- The loop of R152 with its two blocks in this order. -/
def gatherBits : Nat → Feed → Feed → Built → Built
  | 0, _, _, p => p
  | n + 1, a, b, p =>
    let ra := a.put p
    let rb := b.put ra.2
    gatherBits n ra.1 rb.1 rb.2

/-- `ILV(x, y, W, H)` (R152), the inverse of `MIDX`. -/
def ilv (x y W H : Nat) : Nat := (gatherBits (mortonSteps W H) ⟨W, x⟩ ⟨H, y⟩ ⟨0, 0⟩).t

/-- `ILVR(x, y, W, H)` (R152), the inverse of `MIDXR`. -/
def ilvr (x y W H : Nat) : Nat := (gatherBits (mortonSteps W H) ⟨H, y⟩ ⟨W, x⟩ ⟨0, 0⟩).t

/-- The end of an IDX command (R156, R157): IG 0x01, then IG 0x0A when `t >= W * H`; else the index. -/
def idxResult (p : Params) (index : Nat → Nat → Nat → Nat) : CmdResult :=
  valueResult [checkSize p, ⟨decide (p.width.toNat * p.height.toNat ≤ p.coordT.toNat), .ig 0x0A⟩]
    (index p.coordT.toNat p.width.toNat p.height.toNat)

/-- `MORTON.IDX` (R156). -/
def execMortonIdx (s : State) : Host.Outcome State Fault Refusal :=
  .next (s.complete (idxResult s.regs.params midx))

/-- `MORTONR.IDX` (R157). -/
def execMortonRIdx (s : State) : Host.Outcome State Fault Refusal :=
  .next (s.complete (idxResult s.regs.params midxr))

end Sys2Proof.Machine
end

