-- ==== Sys2Proof/Machine/BlockTiled.lean ====
section
/-! DEFINITION. The block-tiled family (spec/42_block_tiled.md): BLK, 3DS and PSP. -/

namespace Sys2Proof.Machine

/-! ## BLK -/

/-- `tpr`: tiles per row (R171). -/
def blkTilesPerRow (p : Params) : Nat := ceilDiv p.unitsW p.tileW.toNat

/-- `tpc`: tile rows (R171). -/
def blkTileRows (p : Params) : Nat := ceilDiv p.unitsH p.tileH.toNat

/-- The checks of R171: IG 0x01, IG 0x02, IG 0x03 (`TILE_W` or `TILE_H` is 0). -/
def blkChecks (p : Params) : List Check :=
  [checkSize p, checkBlock p, ⟨p.tileW.toNat == 0 || p.tileH.toNat == 0, .ig 0x03⟩]

/-- The address function of R171: tiles row-major, and units row-major inside a tile. -/
def blkAddr (p : Params) (x y : Nat) : Nat :=
  let TW := p.tileW.toNat
  let TH := p.tileH.toNat
  (((y / TH) * blkTilesPerRow p + (x / TW)) * (TW * TH) + (y % TH) * TW + (x % TW)) * p.unitBytes

/-- The layout of R171; an edge tile is stored whole. -/
def blkLayout (p : Params) : Layout :=
  gridLayout p.unitsW p.unitsH p.unitBytes
    (blkTilesPerRow p * blkTileRows p * p.tileW.toNat * p.tileH.toNat * p.unitBytes) (blkAddr p)

/-- `BLK.UNSWZ` (R174): generic `.UNSWZ` (R123) with this layout. -/
def execBlkUnswz (s : State) : Host.Outcome State Fault Refusal :=
  .next (s.complete (genericUnswz s (blkChecks s.regs.params) (blkLayout s.regs.params)))

/-- `BLK.SWZ` (R175): generic `.SWZ` (R124) with this layout. -/
def execBlkSwz (s : State) : Host.Outcome State Fault Refusal :=
  .next (s.complete (genericSwz s (blkChecks s.regs.params) (blkLayout s.regs.params)))

/-- `BLK.ADDR` (R176): generic `.ADDR` (R125) with this layout. -/
def execBlkAddr (s : State) : Host.Outcome State Fault Refusal :=
  .next (s.complete (genericAddr s.regs.params (blkChecks s.regs.params) s.regs.params.unitsW s.regs.params.unitsH (blkAddr s.regs.params)))

/-! ## 3DS -/

/-- The checks of R180: IG 0x01, IG 0x02, IG 0x05 (`w` or `h` not a multiple of 8). -/
def n3dsChecks (p : Params) : List Check :=
  [checkSize p, checkBlock p, ⟨p.unitsW % 8 != 0 || p.unitsH % 8 != 0, .ig 0x05⟩]

/-- The address function of R180: 8 x 8 tiles row-major, Morton order inside. -/
def n3dsAddr (p : Params) (x y : Nat) : Nat :=
  (((y / 8) * (p.unitsW / 8) + (x / 8)) * 64 + ilv (x % 8) (y % 8) 8 8) * p.unitBytes

/-- The layout of R180. -/
def n3dsLayout (p : Params) : Layout :=
  gridLayout p.unitsW p.unitsH p.unitBytes (p.unitsW * p.unitsH * p.unitBytes) (n3dsAddr p)

/-- `3DS.UNSWZ` (R182): generic `.UNSWZ` (R123) with this layout. -/
def execN3dsUnswz (s : State) : Host.Outcome State Fault Refusal :=
  .next (s.complete (genericUnswz s (n3dsChecks s.regs.params) (n3dsLayout s.regs.params)))

/-- `3DS.SWZ` (R183): generic `.SWZ` (R124) with this layout. -/
def execN3dsSwz (s : State) : Host.Outcome State Fault Refusal :=
  .next (s.complete (genericSwz s (n3dsChecks s.regs.params) (n3dsLayout s.regs.params)))

/-- `3DS.ADDR` (R184): generic `.ADDR` (R125) with this layout. -/
def execN3dsAddr (s : State) : Host.Outcome State Fault Refusal :=
  .next (s.complete (genericAddr s.regs.params (n3dsChecks s.regs.params) s.regs.params.unitsW s.regs.params.unitsH (n3dsAddr s.regs.params)))

/-! ## PSP -/

/-- `Wb`: the row length in bytes (R190). -/
def pspRowBytes (p : Params) : Nat := p.width.toNat * p.bpp.toNat / 8

/-- The checks of R190: UP 0x16, IG 0x01, IG 0x05. -/
def pspChecks (p : Params) : List Check :=
  [⟨!([4, 8, 16, 32].contains p.bpp.toNat), .up 0x16⟩, checkSize p,
   ⟨p.width.toNat * p.bpp.toNat % 8 != 0 || pspRowBytes p % 16 != 0 || p.height.toNat % 8 != 0, .ig 0x05⟩]

/-- The address function of R190 for byte column `i` and row `j`: blocks of 16 bytes by 8 rows. -/
def pspAddr (p : Params) (i j : Nat) : Nat :=
  ((j / 8) * (pspRowBytes p / 16) + (i / 16)) * 128 + (j % 8) * 16 + (i % 16)

/-- The layout of R190; the unit is one byte. -/
def pspLayout (p : Params) : Layout :=
  gridLayout (pspRowBytes p) p.height.toNat 1 (pspRowBytes p * p.height.toNat) (pspAddr p)

/-- `PSP.UNSWZ` (R193): generic `.UNSWZ` (R123) with this layout. -/
def execPspUnswz (s : State) : Host.Outcome State Fault Refusal :=
  .next (s.complete (genericUnswz s (pspChecks s.regs.params) (pspLayout s.regs.params)))

/-- `PSP.SWZ` (R194): generic `.SWZ` (R124) with this layout. -/
def execPspSwz (s : State) : Host.Outcome State Fault Refusal :=
  .next (s.complete (genericSwz s (pspChecks s.regs.params) (pspLayout s.regs.params)))

/-- `PSP.ADDR` (R195): generic `.ADDR` (R125) with this layout. -/
def execPspAddr (s : State) : Host.Outcome State Fault Refusal :=
  .next (s.complete (genericAddr s.regs.params (pspChecks s.regs.params) (pspRowBytes s.regs.params) s.regs.params.height.toNat
    (pspAddr s.regs.params)))

end Sys2Proof.Machine
end

