-- ==== Sys2Proof/Machine/Morton.lean ====
section
/-! DEFINITION. The whole-image Morton layouts (spec/43_morton_family.md sections 1 and 2): MORTON (PS3, general) and
MORTONR (Dreamcast, PS Vita). -/

namespace Sys2Proof.Machine

/-- The checks of R211 and R215: IG 0x01, IG 0x02, IG 0x04 (`w` or `h` not a power of two). -/
def mortonChecks (p : Params) : List Check :=
  [checkSize p, checkBlock p, ⟨!isPow2 p.unitsW || !isPow2 p.unitsH, .ig 0x04⟩]

/-- R211: `A(x, y) = ILV(x, y, w, h) * B`. -/
def mortonAddr (p : Params) (x y : Nat) : Nat := ilv x y p.unitsW p.unitsH * p.unitBytes

/-- R215: `A(x, y) = ILVR(x, y, w, h) * B`. -/
def mortonRAddr (p : Params) (x y : Nat) : Nat := ilvr x y p.unitsW p.unitsH * p.unitBytes

/-- The layout of R211. -/
def mortonLayout (p : Params) : Layout :=
  gridLayout p.unitsW p.unitsH p.unitBytes (p.unitsW * p.unitsH * p.unitBytes) (mortonAddr p)

/-- The layout of R215. -/
def mortonRLayout (p : Params) : Layout :=
  gridLayout p.unitsW p.unitsH p.unitBytes (p.unitsW * p.unitsH * p.unitBytes) (mortonRAddr p)

/-- `MORTON.UNSWZ` (R212): generic `.UNSWZ` (R123) with this layout. -/
def execMortonUnswz (s : State) : Host.Outcome State Fault Refusal :=
  .next (s.complete (genericUnswz s (mortonChecks s.regs.params) (mortonLayout s.regs.params)))

/-- `MORTON.SWZ` (R213): generic `.SWZ` (R124) with this layout. -/
def execMortonSwz (s : State) : Host.Outcome State Fault Refusal :=
  .next (s.complete (genericSwz s (mortonChecks s.regs.params) (mortonLayout s.regs.params)))

/-- `MORTON.ADDR` (R214): generic `.ADDR` (R125) with this layout. -/
def execMortonAddr (s : State) : Host.Outcome State Fault Refusal :=
  .next (s.complete (genericAddr s.regs.params (mortonChecks s.regs.params) s.regs.params.unitsW s.regs.params.unitsH (mortonAddr s.regs.params)))

/-- `MORTONR.UNSWZ` (R216): generic `.UNSWZ` (R123) with this layout. -/
def execMortonRUnswz (s : State) : Host.Outcome State Fault Refusal :=
  .next (s.complete (genericUnswz s (mortonChecks s.regs.params) (mortonRLayout s.regs.params)))

/-- `MORTONR.SWZ` (R217): generic `.SWZ` (R124) with this layout. -/
def execMortonRSwz (s : State) : Host.Outcome State Fault Refusal :=
  .next (s.complete (genericSwz s (mortonChecks s.regs.params) (mortonRLayout s.regs.params)))

/-- `MORTONR.ADDR` (R218): generic `.ADDR` (R125) with this layout. -/
def execMortonRAddr (s : State) : Host.Outcome State Fault Refusal :=
  .next (s.complete (genericAddr s.regs.params (mortonChecks s.regs.params) s.regs.params.unitsW s.regs.params.unitsH (mortonRAddr s.regs.params)))

end Sys2Proof.Machine
end

