-- ==== Sys2Proof/Machine/Ps2.lean ====
section
/-! DEFINITION. The PS2 Graphics-Synthesizer family (spec/44_ps2_gs.md): PS2.8, PS2.4 with its three OPEN address
functions, and PS2.PAL. -/

namespace Sys2Proof.Machine

/-! ## PS2.8 -/

/-- The checks of R261: UP 0x10 (`PS2_SWIZZLE_TYPE != 1`), IG 0x01, IG 0x05 (`W % 16 != 0` or `H % 4 != 0`). -/
def ps28Checks (p : Params) : List Check :=
  [⟨p.ps2SwizzleType.toNat != 1, .up 0x10⟩, checkSize p,
   ⟨p.width.toNat % 16 != 0 || p.height.toNat % 4 != 0, .ig 0x05⟩]

/-- The address function of R261 for a texture `W` texels wide. -/
def ps28Offset (W x y : Nat) : Nat :=
  let block := clearBits y 0xF * W + clearBits x 0xF * 2
  let swapSelector := (((y + 2) >>> 2) &&& 1) * 4
  let posY := ((clearBits y 3 >>> 1) + (y &&& 1)) &&& 7
  let column := posY * W * 2 + ((x + swapSelector) &&& 7) * 4
  let byteNum := ((y >>> 1) &&& 1) + ((x >>> 2) &&& 2)
  block + column + byteNum

/-- The layout of R261; the unit is one byte. -/
def ps28Layout (p : Params) : Layout :=
  gridLayout p.width.toNat p.height.toNat 1 (p.width.toNat * p.height.toNat) (ps28Offset p.width.toNat)

/-- `PS2.8.UNSWZ` (R264): generic `.UNSWZ` (R123) with this layout. -/
def execPs28Unswz (s : State) : Host.Outcome State Fault Refusal :=
  .next (s.complete (genericUnswz s (ps28Checks s.regs.params) (ps28Layout s.regs.params)))

/-- `PS2.8.SWZ` (R265): generic `.SWZ` (R124) with this layout. -/
def execPs28Swz (s : State) : Host.Outcome State Fault Refusal :=
  .next (s.complete (genericSwz s (ps28Checks s.regs.params) (ps28Layout s.regs.params)))

/-- `PS2.8.ADDR` (R266): generic `.ADDR` (R125) with this layout. -/
def execPs28Addr (s : State) : Host.Outcome State Fault Refusal :=
  .next (s.complete (genericAddr s.regs.params (ps28Checks s.regs.params) s.regs.params.width.toNat s.regs.params.height.toNat
    (ps28Offset s.regs.params.width.toNat)))

/-! ## PS2.4 -/

/-- R270: the texels of one byte, texel `2k` in bits [3:0] and texel `2k+1` in bits [7:4]. -/
def lowNibble (b : Byte) : Nibble := BitVec.ofNat 4 b.toNat

/-- R270. -/
def highNibble (b : Byte) : Nibble := BitVec.ofNat 4 (b.toNat / 16)

/-- R270: a buffer of `n` bytes as its `2n` texels. -/
def toNibbles : List Byte → List Nibble
  | [] => []
  | b :: bs => lowNibble b :: highNibble b :: toNibbles bs

/-- R270: the byte that holds two texels. -/
def byteOfNibbles (lo hi : Nibble) : Byte := BitVec.ofNat 8 (hi.toNat * 16 + lo.toNat)

/-- R270: texels back to bytes. -/
def ofNibbles : List Nibble → List Byte
  | lo :: hi :: rest => byteOfNibbles lo hi :: ofNibbles rest
  | _ => []

/-- R271: the variant a selector value names; every other value is refused (UP 0x10). -/
def ps24Variant : Nat → Option Ps24Variant
  | 1 => some .standard
  | 2 => some .type3
  | 3 => some .suba
  | _ => none

/-- The pair of functions of one variant (R272). -/
structure Ps24Functions where
  /-- `PS2_4_OK_k(W, H)` -/
  ok : Nat → Nat → Bool
  /-- `PS2_4_ADDR_k(x, y, W, H)` -/
  addr : Nat → Nat → Nat → Nat → Nat

/-- The OPEN functions the selector chooses; where the selector is illegal the command has been refused, and the value
here is never reached. -/
def ps24Open (selector : Nat) : Ps24Functions :=
  let k := (ps24Variant selector).getD .standard
  ⟨Config.ps24Ok k, Config.ps24Addr k⟩

/-- `N = W * H`, in texels (R271). -/
def ps24Texels (p : Params) : Nat := p.width.toNat * p.height.toNat

/-- The checks of R271: UP 0x10, IG 0x01, IG 0x06 (`N` odd, or the geometry not admitted). -/
def ps24Checks (f : Ps24Functions) (p : Params) : List Check :=
  [⟨(ps24Variant p.ps2SwizzleType.toNat).isNone, .up 0x10⟩, checkSize p,
   ⟨ps24Texels p % 2 != 0 || !f.ok p.width.toNat p.height.toNat, .ig 0x06⟩]

/-- The layout of R271 with 4-bit texels as units; `Lswz` here counts texels. -/
def ps24Layout (f : Ps24Functions) (p : Params) : Layout :=
  gridLayout p.width.toNat p.height.toNat 1 (ps24Texels p) fun x y => f.addr x y p.width.toNat p.height.toNat

/-- The run-time range check of R134 and R272: OOB 0x01 when a unit lies outside or two units share a texel. -/
def ps24RangeCheck (f : Ps24Functions) (p : Params) : Check :=
  ⟨!((ps24Layout f p).placedTest && (ps24Layout f p).apartTest), .oob 0x01⟩

/-- All checks of a `PS2.4.SWZ` or `PS2.4.UNSWZ`: both buffers are `N / 2` bytes long, and the range check comes last
(R126, R271). -/
def ps24RemapChecks (f : Ps24Functions) (p : Params) : List Check :=
  ps24Checks f p ++ bufferChecks p (ps24Texels p / 2) (ps24Texels p / 2) ++ [ps24RangeCheck f p]

/-- R274 with the OPEN functions as an argument. -/
def ps24Unswz (f : Ps24Functions) (s : State) : CmdResult :=
  remapResult (ps24RemapChecks f s.regs.params)
    (ofNibbles (unswizzle 0 (ps24Layout f s.regs.params) (toNibbles s.source)))

/-- R275 with the OPEN functions as an argument. -/
def ps24Swz (f : Ps24Functions) (s : State) : CmdResult :=
  remapResult (ps24RemapChecks f s.regs.params)
    (ofNibbles (swizzle 0 (ps24Layout f s.regs.params) (toNibbles s.source)))

/-- R276 with the OPEN functions as an argument: in stage 3 of R126 IG 0x0A and IG 0x0B as for every `.ADDR` but
PS2.PAL's (R125, R372, R374), then in stage 5 OOB 0x01 when the index is not below `N`. R276's own pseudocode leaves
IG 0x0B out (log entry 9). -/
def ps24Addr (f : Ps24Functions) (p : Params) : CmdResult :=
  let a := f.addr p.coordX.toNat p.coordY.toNat p.width.toNat p.height.toNat
  valueResult (ps24Checks f p
    ++ addrChecks (decide (p.coordX.toNat < p.width.toNat) && decide (p.coordY.toNat < p.height.toNat)) a
    ++ [⟨decide (ps24Texels p ≤ a), .oob 0x01⟩]) a

/-- `PS2.4.UNSWZ` (R274). -/
def execPs24Unswz (s : State) : Host.Outcome State Fault Refusal :=
  .next (s.complete (ps24Unswz (ps24Open s.regs.params.ps2SwizzleType.toNat) s))

/-- `PS2.4.SWZ` (R275). -/
def execPs24Swz (s : State) : Host.Outcome State Fault Refusal :=
  .next (s.complete (ps24Swz (ps24Open s.regs.params.ps2SwizzleType.toNat) s))

/-- `PS2.4.ADDR` (R276). -/
def execPs24Addr (s : State) : Host.Outcome State Fault Refusal :=
  .next (s.complete (ps24Addr (ps24Open s.regs.params.ps2SwizzleType.toNat) s.regs.params))

/-! ## PS2.PAL -/

/-- `PERM(i)`: bits 3 and 4 of `i` exchanged (R280). -/
def palPerm (i : Nat) : Nat := clearBits i 0x18 ||| ((i &&& 0x08) <<< 1) ||| ((i &&& 0x10) >>> 1)

/-- UP 0x11: `PAL_ENTRY_BYTES` is not 2 or 4 (R280). -/
def palEntryCheck (p : Params) : Check := ⟨!([2, 4].contains p.palEntryBytes.toNat), .up 0x11⟩

/-- `N`: the number of entries of the palette, which is the whole source buffer (R280). -/
def palEntries (p : Params) : Nat := p.srcLen / p.palEntryBytes.toNat

/-- The checks of R280: UP 0x11, IG 0x07. -/
def palChecks (p : Params) : List Check :=
  [palEntryCheck p,
   ⟨p.srcLen % p.palEntryBytes.toNat != 0 || palEntries p == 0 || palEntries p % 32 != 0, .ig 0x07⟩]

/-- The layout of R280. -/
def palLayout (p : Params) : Layout :=
  { count := palEntries p, unit := p.palEntryBytes.toNat, addr := fun i => palPerm i * p.palEntryBytes.toNat
    swzLen := p.srcLen }

/-- `PS2.PAL.UNSWZ` (R282): generic `.UNSWZ` (R123) with this layout. -/
def execPs2PalUnswz (s : State) : Host.Outcome State Fault Refusal :=
  .next (s.complete (genericUnswz s (palChecks s.regs.params) (palLayout s.regs.params)))

/-- `PS2.PAL.SWZ` (R283): generic `.SWZ` (R124) with this layout. -/
def execPs2PalSwz (s : State) : Host.Outcome State Fault Refusal :=
  .next (s.complete (genericSwz s (palChecks s.regs.params) (palLayout s.regs.params)))

/-- The end of `PS2.PAL.ADDR` (R284): UP 0x11, then IG 0x0A when `COORD_Y` is not 0; every `COORD_X` is admitted. -/
def palAddr (p : Params) : CmdResult :=
  valueResult [palEntryCheck p, ⟨p.coordY.toNat != 0, .ig 0x0A⟩] (palPerm p.coordX.toNat * p.palEntryBytes.toNat)

/-- `PS2.PAL.ADDR` (R284). -/
def execPs2PalAddr (s : State) : Host.Outcome State Fault Refusal :=
  .next (s.complete (palAddr s.regs.params))

end Sys2Proof.Machine
end

