-- ==== Sys2Proof/Machine/Switch.lean ====
section
/-! DEFINITION. The Nintendo Switch block-linear GOB tiler (spec/45_switch.md). -/

namespace Sys2Proof.Machine

/-- `Wp`: the padded width in units (R301). -/
def nswPaddedW (p : Params) : Nat := roundUp p.unitsW p.widthPad.toNat

/-- `Hp`: the padded height in units (R301). -/
def nswPaddedH (p : Params) : Nat := roundUp p.unitsH p.heightPad.toNat

/-- `G`: GOB columns; a GOB is 64 bytes wide (R300, R301). -/
def nswGobColumns (p : Params) : Nat := ceilDiv (nswPaddedW p * p.unitBytes) 64

/-- `R`: block rows; a block is `GOB_BLOCK_H` GOBs of 8 rows high (R300, R301). -/
def nswBlockRows (p : Params) : Nat := ceilDiv (nswPaddedH p) (8 * p.gobBlockH.toNat)

/-- The checks of R301: UP 0x14, UP 0x15, IG 0x01, IG 0x02, IG 0x03. -/
def nswChecks (p : Params) : List Check :=
  [⟨!([1, 2, 4, 8, 16].contains p.unitBytes), .up 0x14⟩,
   ⟨!([1, 2, 4, 8, 16, 32].contains p.gobBlockH.toNat), .up 0x15⟩,
   checkSize p, checkBlock p, ⟨p.widthPad.toNat == 0 || p.heightPad.toNat == 0, .ig 0x03⟩]

/-- The byte offset of a 512-byte GOB: block row, GOB column, GOB within the block (R301 `gob`). -/
def nswGob (bh G xb y : Nat) : Nat :=
  (y / (8 * bh)) * (512 * bh * G) + (xb / 64) * (512 * bh) + ((y % (8 * bh)) / 8) * 512

/-- The offset inside a GOB (R301 `sub`). -/
def nswSub (xb y : Nat) : Nat :=
  ((xb % 64) / 32) * 256 + ((y % 8) / 2) * 64 + ((xb % 32) / 16) * 32 + (y % 2) * 16 + (xb % 16)

/-- The address function of R301. -/
def nswAddr (p : Params) (x y : Nat) : Nat :=
  nswGob p.gobBlockH.toNat (nswGobColumns p) (x * p.unitBytes) y + nswSub (x * p.unitBytes) y

/-- The layout of R301. -/
def nswLayout (p : Params) : Layout :=
  gridLayout p.unitsW p.unitsH p.unitBytes (nswGobColumns p * nswBlockRows p * 512 * p.gobBlockH.toNat) (nswAddr p)

/-- `NSW.UNSWZ` (R306): generic `.UNSWZ` (R123) with this layout. -/
def execNswUnswz (s : State) : Host.Outcome State Fault Refusal :=
  .next (s.complete (genericUnswz s (nswChecks s.regs.params) (nswLayout s.regs.params)))

/-- `NSW.SWZ` (R307): generic `.SWZ` (R124) with this layout. -/
def execNswSwz (s : State) : Host.Outcome State Fault Refusal :=
  .next (s.complete (genericSwz s (nswChecks s.regs.params) (nswLayout s.regs.params)))

/-- `NSW.ADDR` (R308): generic `.ADDR` (R125) with this layout. -/
def execNswAddr (s : State) : Host.Outcome State Fault Refusal :=
  .next (s.complete (genericAddr s.regs.params (nswChecks s.regs.params) s.regs.params.unitsW s.regs.params.unitsH (nswAddr s.regs.params)))

end Sys2Proof.Machine
end

