-- ==== Sys2Proof/Machine/TiledMorton.lean ====
section
/-! DEFINITION. The tiled-Morton layouts (spec/43_morton_family.md sections 4 and 5): PS4 with 8 x 8 super-tiles, and PS5
with the super-tile the OPEN parameter `PS5_TILE` gives for the unit size. -/

namespace Sys2Proof.Machine

/-- The address function of the tiled-Morton layout `TM(TW, TH)` over `w` by `h` units of `B` bytes (R231): full tiles in
Morton order, edge tiles row-major, each tile holding exactly its in-image units. -/
def tmAddr (TW TH w h B x y : Nat) : Nat :=
  let tx := x / TW
  let ty := y / TH
  let xi := x % TW
  let yi := y % TH
  let th := min TH (h - ty * TH)
  let cw := min TW (w - tx * TW)
  let base := ty * TH * w + tx * TW * th
  let inner := if cw = TW ∧ th = TH then ilv xi yi TW TH else yi * cw + xi
  (base + inner) * B

/-- The layout `TM(TW, TH)` of R231 over the unit geometry. -/
def tmLayout (TW TH : Nat) (p : Params) : Layout :=
  gridLayout p.unitsW p.unitsH p.unitBytes (p.unitsW * p.unitsH * p.unitBytes)
    (tmAddr TW TH p.unitsW p.unitsH p.unitBytes)

/-- The width and height of the PS4 super-tile in units (R5, R230). -/
def ps4Tile : Nat := 8

/-- The checks of R230: IG 0x01, IG 0x02. -/
def ps4Checks (p : Params) : List Check := [checkSize p, checkBlock p]

/-- R230: `TM(8, 8)`. -/
def ps4Addr (p : Params) (x y : Nat) : Nat := tmAddr ps4Tile ps4Tile p.unitsW p.unitsH p.unitBytes x y

/-- The layout of R230. -/
def ps4Layout (p : Params) : Layout := tmLayout ps4Tile ps4Tile p

/-- `PS4.UNSWZ` (R234): generic `.UNSWZ` (R123) with this layout. -/
def execPs4Unswz (s : State) : Host.Outcome State Fault Refusal :=
  .next (s.complete (genericUnswz s (ps4Checks s.regs.params) (ps4Layout s.regs.params)))

/-- `PS4.SWZ` (R235): generic `.SWZ` (R124) with this layout. -/
def execPs4Swz (s : State) : Host.Outcome State Fault Refusal :=
  .next (s.complete (genericSwz s (ps4Checks s.regs.params) (ps4Layout s.regs.params)))

/-- `PS4.ADDR` (R236): generic `.ADDR` (R125) with this layout. -/
def execPs4Addr (s : State) : Host.Outcome State Fault Refusal :=
  .next (s.complete (genericAddr s.regs.params (ps4Checks s.regs.params) s.regs.params.unitsW s.regs.params.unitsH (ps4Addr s.regs.params)))

/-- The width of a PS5 super-tile in units (R237). -/
def ps5TileW : Ps5Tile → Nat
  | .tile32x16 => 32
  | .tile16x16 => 16

/-- The height of a PS5 super-tile in units (R237). -/
def ps5TileH : Ps5Tile → Nat
  | .tile32x16 => 16
  | .tile16x16 => 16

/-- The checks of R237: UP 0x23 (`PS5_TILE(B)` undefined), IG 0x01, IG 0x02. -/
def ps5Checks (tile : Option Ps5Tile) (p : Params) : List Check :=
  [⟨tile.isNone, .up 0x23⟩, checkSize p, checkBlock p]

/-- The super-tile a PS5 command works with; where `PS5_TILE(B)` is undefined the command has been refused (UP 0x23), and
the value here is never reached. -/
def ps5TileOr (tile : Option Ps5Tile) : Ps5Tile := tile.getD .tile32x16

/-- R237: `TM(TW, TH)` with `(TW, TH) = PS5_TILE(B)`. -/
def ps5Addr (tile : Option Ps5Tile) (p : Params) (x y : Nat) : Nat :=
  tmAddr (ps5TileW (ps5TileOr tile)) (ps5TileH (ps5TileOr tile)) p.unitsW p.unitsH p.unitBytes x y

/-- The layout of R237. -/
def ps5Layout (tile : Option Ps5Tile) (p : Params) : Layout :=
  tmLayout (ps5TileW (ps5TileOr tile)) (ps5TileH (ps5TileOr tile)) p

/-- R241 with the value of `PS5_TILE(B)` as an argument. -/
def ps5Unswz (tile : Option Ps5Tile) (s : State) : CmdResult :=
  genericUnswz s (ps5Checks tile s.regs.params) (ps5Layout tile s.regs.params)

/-- R242 with the value of `PS5_TILE(B)` as an argument. -/
def ps5Swz (tile : Option Ps5Tile) (s : State) : CmdResult :=
  genericSwz s (ps5Checks tile s.regs.params) (ps5Layout tile s.regs.params)

/-- R243 with the value of `PS5_TILE(B)` as an argument. -/
def ps5AddrResult (tile : Option Ps5Tile) (p : Params) : CmdResult :=
  genericAddr p (ps5Checks tile p) p.unitsW p.unitsH (ps5Addr tile p)

/-- `PS5.UNSWZ` (R241). -/
def execPs5Unswz (s : State) : Host.Outcome State Fault Refusal :=
  .next (s.complete (ps5Unswz (Config.ps5Tile s.regs.params.unitBytes) s))

/-- `PS5.SWZ` (R242). -/
def execPs5Swz (s : State) : Host.Outcome State Fault Refusal :=
  .next (s.complete (ps5Swz (Config.ps5Tile s.regs.params.unitBytes) s))

/-- `PS5.ADDR` (R243). -/
def execPs5Addr (s : State) : Host.Outcome State Fault Refusal :=
  .next (s.complete (ps5AddrResult (Config.ps5Tile s.regs.params.unitBytes) s.regs.params))

end Sys2Proof.Machine
end

