-- ==== Sys2Proof/Machine/WiiU.lean ====
section
/-! DEFINITION. The Wii U GX2 bank/pipe tiler (spec/46_wiiu.md). The format table is an OPEN parameter (R322): the
definitions take the bits per element and the block-compressed mark of the surface's format as the two values of
`WiiuFormat`, and only the meanings read the table. -/

namespace Sys2Proof.Machine

/-! ## Chip constants (R326; fixed in the model, R6) -/

/-- R326. -/
def numBanks : Nat := 4
/-- R326. -/
def numPipes : Nat := 2
/-- R326: `PIPE_INTERLEAVE_BYTES`. -/
def pipeInterleaveBytes : Nat := 256
/-- R326: `GROUP_BITS`. -/
def groupBits : Nat := 8
/-- R326. -/
def pipeBits : Nat := 1
/-- R326. -/
def bankBits : Nat := 2
/-- R326. -/
def rowSize : Nat := 2048
/-- R326. -/
def swapSize : Nat := 256
/-- R326. -/
def splitSize : Nat := 2048

/-! ## Formats and tile modes -/

/-- What the format table says of one format: `WIIU_FMT_BPP(f)` and `WIIU_FMT_IS_BC(f)` (R322). -/
structure WiiuFormat where
  bpp : Nat
  isBc : Bool
  deriving DecidableEq, Repr

/-- The OPEN format table (R322). -/
def wiiuOpenFormat (f : Nat) : WiiuFormat := ⟨Config.wiiuFmtBpp f, Config.wiiuFmtIsBc f⟩

/-- The INFORMATIVE values of the format table (R322). No meaning reads them: the vectors of spec/95_test_vectors.md take
them as one model instance, and so do this package's tests. -/
def gx2Format (f : Nat) : WiiuFormat :=
  if f = 0x01 ∨ f = 0x02 ∨ f = 0x03 then ⟨8, false⟩
  else if 0x05 ≤ f ∧ f ≤ 0x0C then ⟨16, false⟩
  else if 0x0D ≤ f ∧ f ≤ 0x1B then ⟨32, false⟩
  else if 0x1C ≤ f ∧ f ≤ 0x20 then ⟨64, false⟩
  else if f = 0x22 ∨ f = 0x23 then ⟨128, false⟩
  else if f = 0x31 ∨ f = 0x34 then ⟨64, true⟩
  else if f = 0x32 ∨ f = 0x33 ∨ f = 0x35 then ⟨128, true⟩
  else ⟨0, false⟩

/-- The classes of tile modes (R320, R323). -/
inductive TileClass where
  | linear
  | micro
  | macroTiled
  deriving DecidableEq, Repr

/-- A row of the tile-mode table (R323). -/
structure TileMode where
  cls : TileClass
  thickness : Nat
  thickMacro : Bool
  bankSwapped : Bool
  aspect : Nat
  rotation : Nat
  deriving DecidableEq, Repr

/-- The tile-mode table of R323; a value above 16 is refused (UP 0x20) and its row here is never reached. -/
def tileModes : List TileMode :=
  [⟨.linear, 1, false, false, 1, 0⟩, ⟨.linear, 1, false, false, 1, 0⟩,
   ⟨.micro, 1, false, false, 1, 0⟩, ⟨.micro, 4, false, false, 1, 0⟩,
   ⟨.macroTiled, 1, false, false, 1, 2⟩, ⟨.macroTiled, 1, false, false, 2, 2⟩, ⟨.macroTiled, 1, false, false, 4, 2⟩,
   ⟨.macroTiled, 4, true, false, 1, 2⟩,
   ⟨.macroTiled, 1, false, true, 1, 2⟩, ⟨.macroTiled, 1, false, true, 2, 2⟩, ⟨.macroTiled, 1, false, true, 4, 2⟩,
   ⟨.macroTiled, 4, true, true, 1, 2⟩,
   ⟨.macroTiled, 1, false, false, 1, 1⟩, ⟨.macroTiled, 4, true, false, 1, 1⟩,
   ⟨.macroTiled, 1, false, true, 1, 1⟩, ⟨.macroTiled, 4, true, true, 1, 1⟩,
   ⟨.macroTiled, 8, false, false, 1, 0⟩]

/-- The row of a tile mode. -/
def tileModeOf (tm : Nat) : TileMode := tileModes.getD tm ⟨.linear, 1, false, false, 1, 0⟩

/-- `MTP = 8 * NUM_BANKS / aspect`: the macro-tile width in elements (R323). -/
def TileMode.mtp (m : TileMode) : Nat := 8 * numBanks / m.aspect

/-- `MTH = 8 * NUM_PIPES * aspect`: the macro-tile height in elements (R323). -/
def TileMode.mth (m : TileMode) : Nat := 8 * numPipes * m.aspect

/-- What the pitch must be a multiple of (R324). -/
def TileMode.pitchAlign (m : TileMode) : Nat :=
  match m.cls with
  | .linear => 1
  | .micro => 8
  | .macroTiled => m.mtp

/-- What the surface height must be a multiple of (R324). -/
def TileMode.heightAlign (m : TileMode) : Nat :=
  match m.cls with
  | .linear => 1
  | .micro => 8
  | .macroTiled => m.mth

/-- R325: the linear and thin macro-tiled modes, the only ones that may have several samples. -/
def multisampleModes : List Nat := [0, 1, 4, 5, 6, 8, 9, 10, 12, 14]

/-! ## The surface (R321) -/

/-- The element geometry of R321. -/
structure Surface where
  bpp : Nat
  w : Nat
  h : Nat
  mode : TileMode
  pitch : Nat
  surfH : Nat
  slices : Nat
  samples : Nat
  pipeSw : Nat
  bankSw : Nat
  deriving DecidableEq, Repr

/-- R321: the surface the registers describe; a block-compressed format counts 4 x 4 blocks, rounding up. -/
def wiiuSurface (f : WiiuFormat) (p : Params) : Surface :=
  { bpp := f.bpp
    w := if f.isBc then ceilDiv p.width.toNat 4 else p.width.toNat
    h := if f.isBc then ceilDiv p.height.toNat 4 else p.height.toNat
    mode := tileModeOf p.wiiuTileMode.toNat
    pitch := p.wiiuPitch.toNat
    surfH := p.wiiuSurfHeight.toNat
    slices := p.wiiuNumSlices.toNat
    samples := 2 ^ p.wiiuAa.toNat
    pipeSw := p.pipeSw
    bankSw := p.bankSw }

/-- `B = bpp / 8`: bytes per element (R321). -/
def Surface.bytes (g : Surface) : Nat := g.bpp / 8

/-! ## The address function -/

/-- `LINEAR(x, y, z, s)` (R327). -/
def Surface.linearAddr (g : Surface) (x y z s : Nat) : Nat :=
  ((y * g.pitch + x + g.pitch * g.surfH * (z + s * g.slices)) * g.bpp) / 8

/-- The bits b0 to b5 of the micro-tile pixel index, selected by the bits per element (R328). -/
def pixelBits (bpp x y : Nat) : List Nat :=
  let x0 := bitAt x 0
  let x1 := bitAt x 1
  let x2 := bitAt x 2
  let y0 := bitAt y 0
  let y1 := bitAt y 1
  let y2 := bitAt y 2
  if bpp = 8 then [x0, x1, x2, y1, y0, y2]
  else if bpp = 16 then [x0, x1, x2, y0, y1, y2]
  else if bpp = 32 then [x0, x1, y0, x2, y1, y2]
  else if bpp = 64 then [x0, y0, x1, x2, y1, y2]
  else [y0, x0, x1, x2, y1, y2]

/-- The natural with these bits, least significant first: "sum of b_i << i" (R328). -/
def natOfBits : List Nat → Nat
  | [] => 0
  | b :: bs => b + 2 * natOfBits bs

/-- `PIDX(x, y, z)` for a thickness (R328). -/
def pixelIndex (bpp thickness x y z : Nat) : Nat :=
  natOfBits (pixelBits bpp x y ++
    [if 1 < thickness then bitAt z 0 else 0, if 1 < thickness then bitAt z 1 else 0,
     if thickness = 8 then bitAt z 2 else 0])

/-- `MICRO(x, y, z)` (R329). -/
def Surface.microAddr (g : Surface) (x y z : Nat) : Nat :=
  let th := g.mode.thickness
  let mtb := (64 * th * g.bpp + 7) / 8
  let mtOff := mtb * ((x >>> 3) + (y >>> 3) * (g.pitch >>> 3))
  let sliceB := (g.pitch * g.surfH * th * g.bpp + 7) / 8
  let sliceOff := sliceB * (z / th)
  ((g.bpp * pixelIndex g.bpp th x y z) >>> 3) + mtOff + sliceOff

/-- `PIPE0(x, y)` (R330). -/
def pipe0 (x y : Nat) : Nat := bitAt y 3 ^^^ bitAt x 3

/-- `BANK0(x, y)` (R330). -/
def bank0 (x y : Nat) : Nat :=
  (bitAt (y / (16 * numPipes)) 0 ^^^ bitAt x 3) ||| ((bitAt (y / (8 * numPipes)) 0 ^^^ bitAt x 4) <<< 1)

/-- The loop at the end of R331: halve `bw` while it is at least `2 * P`. With `P >= 1` it ends within the iterations
given, since `bw` reaches 0. -/
def halveTo (limit : Nat) : Nat → Nat → Nat
  | 0, bw => bw
  | n + 1, bw => if limit ≤ bw then halveTo limit n (bw >>> 1) else bw

/-- `BSW(nsx)`: the bank-swapped width (R331). -/
def Surface.bankSwappedWidth (g : Surface) (nsx : Nat) : Nat :=
  let bytesPerSample := 8 * g.bpp
  let samplesPerTile := splitSize / bytesPerSample
  let slicesPerTile := max 1 (nsx / samplesPerTile)
  let n := if g.mode.thickMacro then 4 else nsx
  let bytesPerTileSlice := n * bytesPerSample / slicesPerTile
  let swapTiles := max 1 ((swapSize >>> 1) / g.bpp)
  let swapWidth := swapTiles * 8 * numBanks
  let heightBytes := n * g.mode.aspect * numPipes * g.bpp / slicesPerTile
  let swapMax := numPipes * numBanks * rowSize / heightBytes
  let swapMin := pipeInterleaveBytes * 8 * numBanks / bytesPerTileSlice
  let bw := min swapMax (max swapMin swapWidth)
  halveTo (2 * g.pitch) (bw.log2 + 1) bw

/-- The sample split of R332: samples per slice (`nsx` after the branch), the number of splits, the sample slice, and the
bit offset of the element in the micro-tile. -/
structure SampleSplit where
  nsx : Nat
  splits : Nat
  sampleSlice : Nat
  elem : Nat
  deriving DecidableEq, Repr

/-- The first part of R332. -/
def Surface.sampleSplit (g : Surface) (x y z s : Nat) : SampleSplit :=
  let nsx := g.samples
  let mtBits := nsx * g.bpp * g.mode.thickness * 64
  let mtBytes := (mtBits + 7) / 8
  let bytesPerSample := mtBytes / nsx
  let elem := g.bpp * pixelIndex g.bpp g.mode.thickness x y z + s * (mtBits / nsx)
  if nsx ≤ 1 ∨ mtBytes ≤ splitSize then ⟨nsx, 1, 0, elem⟩
  else
    let samplesPerSlice := splitSize / bytesPerSample
    let splits := nsx / samplesPerSlice
    let tileSliceBits := mtBits / splits
    ⟨samplesPerSlice, splits, elem / tileSliceBits, elem % tileSliceBits⟩

/-- `ORDER` (R332). -/
def bankOrder : List Nat := [0, 1, 3, 2, 6, 7, 5, 4, 0, 0]

/-- The bank and pipe of R332 before the bank swap: `bank_pipe`, with the swizzle seeds and the rotation. -/
def Surface.bankPipe (g : Surface) (sampleSlice x y z : Nat) : Nat :=
  let sw := g.pipeSw + numPipes * g.bankSw
  let sliceIn := if g.mode.thickMacro then z >>> 2 else z
  ((pipe0 x y + numPipes * bank0 x y) ^^^
    ((numPipes * sampleSlice * ((numBanks >>> 1) + 1)) ^^^ (sw + sliceIn * g.mode.rotation)))
    % (numPipes * numBanks)

/-- `MACRO(x, y, z, s)` (R332). -/
def Surface.macroAddr (g : Surface) (x y z s : Nat) : Nat :=
  let th := g.mode.thickness
  let sp := g.sampleSplit x y z s
  let elemBytes := (sp.elem + 7) / 8
  let bankPipe := g.bankPipe sp.sampleSlice x y z
  let pipe := bankPipe % numPipes
  let bankRaw := bankPipe / numPipes
  let sliceB := (g.surfH * g.pitch * th * g.bpp * sp.nsx + 7) / 8
  let sliceOff := sliceB * ((sp.sampleSlice + sp.splits * z) / th)
  let perRow := g.pitch / g.mode.mtp
  let mtileB := (sp.nsx * th * g.bpp * g.mode.mth * g.mode.mtp + 7) / 8
  let mix := x / g.mode.mtp
  let miy := y / g.mode.mth
  let mtOff := (mix + perRow * miy) * mtileB
  let swapIndex := (g.mode.mtp * mix) / g.bankSwappedWidth sp.nsx
  let bank := if g.mode.bankSwapped then bankRaw ^^^ bankOrder.getD (swapIndex &&& (numBanks - 1)) 0 else bankRaw
  let total := elemBytes + ((mtOff + sliceOff) >>> (bankBits + pipeBits))
  let offHi := (total - total % 2 ^ groupBits) <<< (bankBits + pipeBits)
  let offLo := total % 2 ^ groupBits
  (bank <<< (pipeBits + groupBits)) ||| (pipe <<< groupBits) ||| offLo ||| offHi

/-- `A(x, y, z, s)`, in bytes (R333). -/
def Surface.addr (g : Surface) (x y z s : Nat) : Nat :=
  match g.mode.cls with
  | .linear => g.linearAddr x y z s
  | .micro => g.microAddr x y z
  | .macroTiled => g.macroAddr x y z s

/-- The layout of R334: every slice and every sample; the unit at linear position `i` is
`(i % w, i // w % h, i // (w*h) % NS, i // (w*h*NS))`, sample 0's slices first. -/
def Surface.layout (g : Surface) (surfSize : Nat) : Layout :=
  { count := g.samples * g.slices * g.h * g.w
    unit := g.bytes
    addr := fun i => g.addr (i % g.w) (i / g.w % g.h) (i / (g.w * g.h) % g.slices) (i / (g.w * g.h * g.slices))
    swzLen := surfSize }

/-! ## Checks and commands -/

/-- The checks of R322 to R325 in the order of R338: UP 0x20, 0x21, 0x22, 0x24; IG 0x01, 0x05, 0x08. -/
def wiiuChecks (f : WiiuFormat) (p : Params) : List Check :=
  let g := wiiuSurface f p
  [⟨decide (16 < p.wiiuTileMode.toNat), .up 0x20⟩,
   ⟨!([8, 16, 32, 64, 128].contains f.bpp), .up 0x21⟩,
   ⟨decide (3 < p.wiiuAa.toNat), .up 0x22⟩,
   ⟨p.wiiuAa.toNat != 0 && !(multisampleModes.contains p.wiiuTileMode.toNat), .up 0x24⟩,
   checkSize p,
   ⟨g.pitch % g.mode.pitchAlign != 0 || g.surfH % g.mode.heightAlign != 0, .ig 0x05⟩,
   ⟨decide (g.pitch < g.w) || decide (g.surfH < g.h) || g.slices == 0, .ig 0x08⟩]

/-- The surface check of R336: IG 0x09 when a unit lies outside `WIIU_SURF_SIZE` bytes or two units overlap. -/
def wiiuSurfaceCheck (f : WiiuFormat) (p : Params) : Check :=
  ⟨!(((wiiuSurface f p).layout p.surfSize).placedTest && ((wiiuSurface f p).layout p.surfSize).apartTest), .ig 0x09⟩

/-- R338 with the row of the format table as an argument. -/
def wiiuUnswz (f : WiiuFormat) (s : State) : CmdResult :=
  genericUnswz s (wiiuChecks f s.regs.params ++ [wiiuSurfaceCheck f s.regs.params])
    ((wiiuSurface f s.regs.params).layout s.regs.params.surfSize)

/-- R339 with the row of the format table as an argument. -/
def wiiuSwz (f : WiiuFormat) (s : State) : CmdResult :=
  genericSwz s (wiiuChecks f s.regs.params ++ [wiiuSurfaceCheck f s.regs.params])
    ((wiiuSurface f s.regs.params).layout s.regs.params.surfSize)

/-- R340 with the row of the format table as an argument; `WIIU_SURF_SIZE` is not read. -/
def wiiuAddr (f : WiiuFormat) (p : Params) : CmdResult :=
  let g := wiiuSurface f p
  addrResult (wiiuChecks f p)
    (decide (p.coordX.toNat < g.w) && decide (p.coordY.toNat < g.h)
      && decide (p.wiiuSlice.toNat < g.slices) && decide (p.wiiuSample.toNat < g.samples))
    (g.addr p.coordX.toNat p.coordY.toNat p.wiiuSlice.toNat p.wiiuSample.toNat)

/-- `WIIU.UNSWZ` (R338). -/
def execWiiuUnswz (s : State) : Host.Outcome State Fault Refusal :=
  .next (s.complete (wiiuUnswz (wiiuOpenFormat s.regs.params.hwFmt) s))

/-- `WIIU.SWZ` (R339). -/
def execWiiuSwz (s : State) : Host.Outcome State Fault Refusal :=
  .next (s.complete (wiiuSwz (wiiuOpenFormat s.regs.params.hwFmt) s))

/-- `WIIU.ADDR` (R340). -/
def execWiiuAddr (s : State) : Host.Outcome State Fault Refusal :=
  .next (s.complete (wiiuAddr (wiiuOpenFormat s.regs.params.hwFmt) s.regs.params))

end Sys2Proof.Machine
end

