-- ==== Sys2Proof/Machine/X360.lean ====
section
/-! DEFINITION. The Xbox 360 X-tiling with byte-order swap (spec/43_morton_family.md section 3). -/

namespace Sys2Proof.Machine

/-- `LOGBPP(tp)` (R221). -/
def logBpp (tp : Nat) : Nat := (tp >>> 2) + ((tp >>> 1) >>> (tp >>> 2))

/-- `aw = (w + 31) & ~31` (R221). -/
def xgAlignedWidth (w : Nat) : Nat := clearBits (w + 31) 31

/-- `XGOFF(x, y, w, tp)`: the swizzled unit index of linear unit `(x, y)` (R221). -/
def xgOff (x y w tp : Nat) : Nat :=
  let aw := xgAlignedWidth w
  let lb := logBpp tp
  let tile := ((x >>> 5) + (y >>> 5) * (aw >>> 5)) <<< (lb + 7)
  let micro := ((x &&& 7) + ((y &&& 0xE) <<< 2)) <<< lb
  let off := tile + (clearBits micro 0xF <<< 1) + (micro &&& 0xF) + ((y &&& 1) <<< 4)
  let r := (clearBits off 0x1FF <<< 3) + ((y &&& 16) <<< 7) + ((off &&& 0x1C0) <<< 2)
    + (((((y &&& 8) >>> 2) + (x >>> 3)) &&& 3) <<< 6) + (off &&& 0x3F)
  r >>> lb

/-- The value `ot` of the inverse functions of R221 (informative: no meaning reads it). -/
def xgTileOffset (s tp : Nat) : Nat :=
  let ob := s <<< logBpp tp
  (clearBits ob 4095 >>> 3) + ((ob &&& 1792) >>> 2) + (ob &&& 63)

/-- `XGX(s, w, tp)`: the column of the linear unit at swizzled unit index `s` (R221, informative: no meaning reads it). -/
def xgX (s w tp : Nat) : Nat :=
  let aw := xgAlignedWidth w
  let lb := logBpp tp
  let ob := s <<< lb
  let ot := xgTileOffset s tp
  let om := ot >>> (7 + lb)
  let tile := (((om % (aw >>> 5)) <<< 2) + ((((ot >>> (5 + lb)) &&& 2) + (ob >>> 6)) &&& 3)) <<< 3
  let micro := (((clearBits (ot >>> 1) 15) + (ot &&& 15)) &&& ((tp <<< 3) - 1)) >>> lb
  tile + micro

/-- `XGY(s, w, tp)`: the row of the linear unit at swizzled unit index `s` (R221, informative: no meaning reads it). -/
def xgY (s w tp : Nat) : Nat :=
  let aw := xgAlignedWidth w
  let lb := logBpp tp
  let ob := s <<< lb
  let ot := xgTileOffset s tp
  let om := ot >>> (7 + lb)
  let tile := (((om / (aw >>> 5)) <<< 2) + (((ot >>> (6 + lb)) &&& 1) + ((ob &&& 2048) >>> 10))) <<< 3
  let micro := clearBits (((ot &&& clearBits ((tp <<< 6) - 1) 31) + ((ot &&& 15) <<< 1)) >>> (3 + lb)) 1
  tile + micro + ((ot &&& 16) >>> 4)

/-- Exchange bytes `2k` and `2k+1` for every `k` (R222, `SWAP_UNIT` = 0). -/
def swapPairs : List Byte → List Byte
  | a :: b :: rest => b :: a :: swapPairs rest
  | rest => rest

/-- Reverse bytes `4k .. 4k+3` for every `k` (R222, `SWAP_UNIT` = 2). -/
def swapQuads : List Byte → List Byte
  | a :: b :: c :: d :: rest => d :: c :: b :: a :: swapQuads rest
  | rest => rest

/-- `SWAP(buf)`, selected by `SWAP_UNIT` (R222); a value above 2 has been refused (UP 0x12). -/
def swapBytes (unit : Nat) (buf : List Byte) : List Byte :=
  if unit = 0 then swapPairs buf else if unit = 2 then swapQuads buf else buf

/-- `HA(B)`: the required height alignment in units (R223). -/
def xgHeightAlign (B : Nat) : Nat := if B = 1 then 128 else if B = 2 then 64 else 32

/-- The checks of R220 that every X360 command runs: UP 0x13, IG 0x01, IG 0x02, IG 0x05. -/
def x360Checks (p : Params) : List Check :=
  [⟨!([1, 2, 4, 8, 16].contains p.unitBytes), .up 0x13⟩, checkSize p, checkBlock p,
   ⟨p.unitsW % 32 != 0 || p.unitsH % xgHeightAlign p.unitBytes != 0, .ig 0x05⟩]

/-- UP 0x12: `SWAP_UNIT > 2`, checked by `X360.UNSWZ` and `X360.SWZ` only, before the rest (R220, R228, C17). -/
def x360SwapCheck (p : Params) : Check := ⟨decide (2 < p.swapUnit.toNat), .up 0x12⟩

/-- R220: `A(x, y) = XGOFF(x, y, w, B) * B`. -/
def x360Addr (p : Params) (x y : Nat) : Nat := xgOff x y p.unitsW p.unitBytes * p.unitBytes

/-- The layout of R220. -/
def x360Layout (p : Params) : Layout :=
  gridLayout p.unitsW p.unitsH p.unitBytes (p.unitsW * p.unitsH * p.unitBytes) (x360Addr p)

/-- `X360.UNSWZ` (R226): the source is swapped first, then untiled (R225). -/
def execX360Unswz (s : State) : Host.Outcome State Fault Refusal :=
  let p := s.regs.params
  let lay := x360Layout p
  .next (s.complete (remapResult (x360SwapCheck p :: x360Checks p ++ bufferChecks p lay.swzLen lay.linLen)
    (unswizzle 0 lay (swapBytes p.swapUnit.toNat s.source))))

/-- `X360.SWZ` (R227): the source is tiled first, then the tiled result swapped (R225). -/
def execX360Swz (s : State) : Host.Outcome State Fault Refusal :=
  let p := s.regs.params
  let lay := x360Layout p
  .next (s.complete (remapResult (x360SwapCheck p :: x360Checks p ++ bufferChecks p lay.linLen lay.swzLen)
    (swapBytes p.swapUnit.toNat (swizzle 0 lay s.source))))

/-- `X360.ADDR` (R228): generic `.ADDR` (R125); `SWAP_UNIT` is not read. -/
def execX360Addr (s : State) : Host.Outcome State Fault Refusal :=
  .next (s.complete (genericAddr s.regs.params (x360Checks s.regs.params) s.regs.params.unitsW s.regs.params.unitsH (x360Addr s.regs.params)))

end Sys2Proof.Machine
end

