-- ==== Sys2Proof/Machine/Dispatch.lean ====
section
/-! DEFINITION. The meaning of every command: one arm per constructor of `Instr`. -/

namespace Sys2Proof.Machine

def exec (i : Instr) (s : State) : Host.Outcome State Fault Refusal :=
  match i with
  | .mortonUnswz => Sys2Proof.Machine.execMortonUnswz s
  | .mortonSwz => Sys2Proof.Machine.execMortonSwz s
  | .mortonAddr => Sys2Proof.Machine.execMortonAddr s
  | .mortonIdx => Sys2Proof.Machine.execMortonIdx s
  | .mortonRUnswz => Sys2Proof.Machine.execMortonRUnswz s
  | .mortonRSwz => Sys2Proof.Machine.execMortonRSwz s
  | .mortonRAddr => Sys2Proof.Machine.execMortonRAddr s
  | .mortonRIdx => Sys2Proof.Machine.execMortonRIdx s
  | .x360Unswz => Sys2Proof.Machine.execX360Unswz s
  | .x360Swz => Sys2Proof.Machine.execX360Swz s
  | .x360Addr => Sys2Proof.Machine.execX360Addr s
  | .ps4Unswz => Sys2Proof.Machine.execPs4Unswz s
  | .ps4Swz => Sys2Proof.Machine.execPs4Swz s
  | .ps4Addr => Sys2Proof.Machine.execPs4Addr s
  | .ps5Unswz => Sys2Proof.Machine.execPs5Unswz s
  | .ps5Swz => Sys2Proof.Machine.execPs5Swz s
  | .ps5Addr => Sys2Proof.Machine.execPs5Addr s
  | .blkUnswz => Sys2Proof.Machine.execBlkUnswz s
  | .blkSwz => Sys2Proof.Machine.execBlkSwz s
  | .blkAddr => Sys2Proof.Machine.execBlkAddr s
  | .n3dsUnswz => Sys2Proof.Machine.execN3dsUnswz s
  | .n3dsSwz => Sys2Proof.Machine.execN3dsSwz s
  | .n3dsAddr => Sys2Proof.Machine.execN3dsAddr s
  | .pspUnswz => Sys2Proof.Machine.execPspUnswz s
  | .pspSwz => Sys2Proof.Machine.execPspSwz s
  | .pspAddr => Sys2Proof.Machine.execPspAddr s
  | .ps28Unswz => Sys2Proof.Machine.execPs28Unswz s
  | .ps28Swz => Sys2Proof.Machine.execPs28Swz s
  | .ps28Addr => Sys2Proof.Machine.execPs28Addr s
  | .ps24Unswz => Sys2Proof.Machine.execPs24Unswz s
  | .ps24Swz => Sys2Proof.Machine.execPs24Swz s
  | .ps24Addr => Sys2Proof.Machine.execPs24Addr s
  | .ps2PalUnswz => Sys2Proof.Machine.execPs2PalUnswz s
  | .ps2PalSwz => Sys2Proof.Machine.execPs2PalSwz s
  | .ps2PalAddr => Sys2Proof.Machine.execPs2PalAddr s
  | .nswUnswz => Sys2Proof.Machine.execNswUnswz s
  | .nswSwz => Sys2Proof.Machine.execNswSwz s
  | .nswAddr => Sys2Proof.Machine.execNswAddr s
  | .wiiuUnswz => Sys2Proof.Machine.execWiiuUnswz s
  | .wiiuSwz => Sys2Proof.Machine.execWiiuSwz s
  | .wiiuAddr => Sys2Proof.Machine.execWiiuAddr s

end Sys2Proof.Machine
end

