-- ==== Sys2Proof/Machine/Access.lean ====
section
/-! DEFINITION. What one access of the host does (spec/20_memory.md R61, R70; spec/10_state.md R25): a write to `CMD`
runs a command, any other register access reads or writes a register, and the host reads and stores external memory. -/

namespace Sys2Proof.Machine

/-- R25, R70, R91: a write of `c` to `CMD` runs the command `c` decodes to, as one atomic transition; a word that is no
command ends in the error of the failing step. -/
def runCommand (c : Word) (s : State) : Host.Outcome State Fault Refusal :=
  match decode c with
  | .ok i => exec i s
  | .error e => .next (s.raise (decodeErrorCode e))

/-- R61: the one way to a register. An access of another width, to no instance, at an unaligned offset or outside the
256 bytes stops; otherwise `act` runs with the instance addressed and the offset. -/
def registerAccess (bytes : Nat) (target : RegTarget) (s : State)
    (act : Nat → State → Host.Outcome State Fault Refusal) : Host.Outcome State Fault Refusal :=
  if bytes ≠ 4 then .refused .accessWidth
  else
    match resolveTarget s.instanceCount target with
    | none => .fault .noSuchInstance
    | some (k, offset) =>
      match s.select k with
      | none => .fault .noSuchInstance
      | some s' =>
        if offset % 4 ≠ 0 then .refused .accessAlignment
        else if 256 ≤ offset then .fault .outsideRegisterSpace
        else act offset s'

/-- R61: a read answers the register's value, as R24 to R34 give it; it changes no register. -/
def readRegister (offset : Nat) (s : State) : Host.Outcome State Fault Refusal :=
  .next { s with answer := .word (s.regs.readOffset offset) }

/-- R61, R25: a write to `CMD` starts a command; a write elsewhere stores the value (R34). -/
def writeRegister (value : Word) (offset : Nat) (s : State) : Host.Outcome State Fault Refusal :=
  match regAt offset with
  | some .cmd => runCommand value s
  | _ => .next { s with regs := s.regs.writeOffset offset value }

/-- R401: reset of one instance. -/
def resetInstance (k : Nat) (s : State) : Host.Outcome State Fault Refusal :=
  match s.select k with
  | none => .fault .noSuchInstance
  | some s' => .next s'.resetSelected

/-- One access of the host. -/
def hostAccess (a : HostAccess) (s : State) : Host.Outcome State Fault Refusal :=
  match a with
  | .regRead bytes target => registerAccess bytes target s readRegister
  | .regWrite bytes target value => registerAccess bytes target s (writeRegister value)
  | .memRead address => .next { s with answer := .byte (s.mem.read address.toNat) }
  | .memWrite address value => .next { s with mem := s.mem.writeBytes address.toNat [value] }
  | .resetInstance k => resetInstance k s
  | .resetAll => .next s.resetEvery

/-- The state in which the access at hand runs: the accesses after it remain, and nothing is answered yet. -/
def State.taking (s : State) (rest : List HostAccess) : State :=
  { s with pending := rest, answer := .none }

end Sys2Proof.Machine
end

