-- ==== Sys2Proof/Machine/Step.lean ====
section
/-! DEFINITION. One step of the machine: the host's next access. The TSE has no program counter and fetches nothing
(spec/10_state.md R21); "The order of commands is the order in which the host writes `CMD`". -/

namespace Sys2Proof.Machine

/-- One step: the host's next access; with none to come, nothing happens (log entry 2). -/
def step (s : State) : Host.Outcome State Fault Refusal :=
  match s.pending with
  | [] => .next s
  | a :: rest => hostAccess a (s.taking rest)

/-- `s` with a write of the command word `w` to `CMD` of the addressed instance as the host's next access, so that the
very next step decodes and runs it (log entry 2). Nothing else changes. -/
def State.withFetchWord (s : State) (nbits w : Nat) : State :=
  { s with
    pending := .regWrite 4 (.reg s.selected 0) (BitVec.ofNat 32 (w % 2 ^ nbits)) :: s.pending }

end Sys2Proof.Machine
end

