-- ==== Sys2Proof/Safety.lean ====
section
/-! DEFINITION. The terms claims use: what a completed command leaves (spec/60_exceptions.md R380, R381), what a correct
remap is (spec/40_remap_contract.md R121, R123, R124), and what holds of the machine at all times. These are written
from the rules and call no meaning. -/

namespace Sys2Proof.Machine

/-! ## How a command ends -/

/-- The detail codes of R372, each with its class: "No other detail code exists." -/
def allErrors : List CmdError :=
  [.up 0x01, .up 0x02, .up 0x03, .up 0x10, .up 0x11, .up 0x12, .up 0x13, .up 0x14, .up 0x15, .up 0x16,
   .up 0x20, .up 0x21, .up 0x22, .up 0x23, .up 0x24,
   .ig 0x01, .ig 0x02, .ig 0x03, .ig 0x04, .ig 0x05, .ig 0x06, .ig 0x07, .ig 0x08, .ig 0x09, .ig 0x0A, .ig 0x0B,
   .ig 0x10, .ig 0x11, .ig 0x12, .ig 0x13,
   .oob 0x01]

/-- The word R381 gives for an error: `0x3 | (c << 4) | (d << 8)`, `c` its class by R371 and `d` its detail code. -/
def errorWord : CmdError → Word
  | .ig d => 0x00000013 ||| (d.setWidth 32 <<< 8)
  | .up d => 0x00000023 ||| (d.setWidth 32 <<< 8)
  | .oob d => 0x00000033 ||| (d.setWidth 32 <<< 8)

/-- R381: the state after the command equals the state before it, except that `STATUS` is the error's word and
`OUT_LEN` and `RESULT` are 0. -/
def ErrorEffect (s t : State) (e : CmdError) : Prop :=
  t = { s with regs := { s.regs with results := ⟨errorWord e, 0, 0, 0, 0⟩ } }

/-- R380 for an `.ADDR` or `.IDX`: `STATUS` is 1, `OUT_LEN` 0, `RESULT` the value, which fits its 64 bits; nothing else
changes, memory included (R35). -/
def ValueEffect (s t : State) (v : Nat) : Prop :=
  v < 2 ^ 64 ∧
  t = { s with regs := { s.regs with
          results := ⟨1, 0, 0, BitVec.ofNat 32 (v % 2 ^ 32), BitVec.ofNat 32 (v / 2 ^ 32)⟩ } }

/-- Everything but the result registers and memory is as before: no command writes a parameter register (R9, R23), the
other instances are untouched (R384), and the model's own fields stay. -/
def OnlyCompletes (s t : State) : Prop :=
  t.regs.params = s.regs.params ∧ t.others = s.others ∧ t.selected = s.selected ∧ t.pending = s.pending ∧
    t.answer = s.answer

/-- R380 for a `.SWZ` or `.UNSWZ` that writes `outLen` bytes, but for what the bytes are: the result registers, the frame,
and every byte of memory outside `[DST_BASE, DST_BASE + outLen)` as before (R63). -/
structure OutputFrame (s t : State) (outLen : Nat) : Prop where
  fits : outLen < 2 ^ 64
  results : t.regs.results = ⟨1, BitVec.ofNat 32 (outLen % 2 ^ 32), BitVec.ofNat 32 (outLen / 2 ^ 32), 0, 0⟩
  frame : OnlyCompletes s t
  outside : ∀ a, a < s.regs.params.dstBase ∨ s.regs.params.dstBase + outLen ≤ a → t.mem.read a = s.mem.read a

/-! ## What a correct remap is -/

/-- A layout as R120 gives it, over units of any type: the domain `U`, the linear position `lin`, where the swizzled buffer
keeps byte `k` of a unit (`A(u) + k`, but for the byte swap of X360), the unit size and the two lengths. -/
structure UnitMap (ι : Type) where
  inDomain : ι → Prop
  lin : ι → Nat
  place : ι → Nat → Nat
  unit : Nat
  linLen : Nat
  swzLen : Nat

/-- The effect of R123: byte `k` of every unit goes from where the swizzled source keeps it to its linear place. -/
structure UnswzEffect {ι : Type} (m : UnitMap ι) (s t : State) : Prop where
  output : OutputFrame s t m.linLen
  units : ∀ u, m.inDomain u → ∀ k, k < m.unit →
    t.mem.read (s.regs.params.dstBase + (m.lin u * m.unit + k)) = s.mem.read (s.regs.params.srcBase + m.place u k)

/-- The effect of R124: byte `k` of every unit goes from its linear place to where the swizzled output keeps it, and
every other byte of the output is 0 (R127). -/
structure SwzEffect {ι : Type} (m : UnitMap ι) (s t : State) : Prop where
  output : OutputFrame s t m.swzLen
  units : ∀ u, m.inDomain u → ∀ k, k < m.unit →
    t.mem.read (s.regs.params.dstBase + m.place u k) = s.mem.read (s.regs.params.srcBase + (m.lin u * m.unit + k))
  padding : ∀ j, j < m.swzLen → (∀ u, m.inDomain u → ∀ k, k < m.unit → m.place u k ≠ j) →
    t.mem.read (s.regs.params.dstBase + j) = 0

/-- The unit map of a `w` by `h` image of `B`-byte units (R122): the units `(x, y)`, row-major. -/
def gridMap (w h B swzLen : Nat) (A : Nat → Nat → Nat) : UnitMap (Nat × Nat) :=
  { inDomain := fun u => u.1 < w ∧ u.2 < h
    lin := fun u => u.2 * w + u.1
    place := fun u k => A u.1 u.2 + k
    unit := B
    linLen := w * h * B
    swzLen := swzLen }

/-- One check of a command and what follows it (R126): where it fails, the command ends in its error; where it does not,
`rest` says what the command does. -/
def Checked (s t : State) (fails : Prop) (e : CmdError) (rest : Prop) : Prop :=
  (fails ∧ ErrorEffect s t e) ∨ (¬ fails ∧ rest)

/-- IG 0x01 (R29, R122): `WIDTH = 0` or `HEIGHT = 0`. -/
def SizeChecked (s t : State) (rest : Prop) : Prop :=
  Checked s t (s.regs.params.width = 0 ∨ s.regs.params.height = 0) (.ig 0x01) rest

/-- IG 0x02 (R30, R122): `BLOCK_W`, `BLOCK_H` or `BLOCK_BYTES` is 0. -/
def BlockChecked (s t : State) (rest : Prop) : Prop :=
  Checked s t (s.regs.params.blockW = 0 ∨ s.regs.params.blockH = 0 ∨ s.regs.params.blockBytes = 0) (.ig 0x02) rest

/-- The two ranges are not empty and share an address (R65). -/
def ShareByte (srcBase srcLen dstBase outLen : Nat) : Prop :=
  ∃ a, (srcBase ≤ a ∧ a < srcBase + srcLen) ∧ (dstBase ≤ a ∧ a < dstBase + outLen)

/-- Where the byte swap of R222 puts the byte at position `j`: `SWAP_UNIT` 0 exchanges bytes `2k` and `2k+1`, 2 reverses
bytes `4k` to `4k+3`, 1 leaves them. -/
def swapPlace (swapUnit j : Nat) : Nat :=
  if swapUnit = 0 then j ^^^ 1 else if swapUnit = 2 then j ^^^ 3 else j

/-- Stage 4 of R126, and what follows when it passes: IG 0x10 when `SRC_LEN` is not the expected length, IG 0x11 when
`DST_CAP < Lout`, IG 0x12 when a buffer wraps, IG 0x13 when the source and output ranges share a byte; else `rest`. -/
def BufferChecked (s t : State) (srcLen outLen : Nat) (rest : Prop) : Prop :=
  Checked s t (s.regs.params.srcLen ≠ srcLen) (.ig 0x10) <|
  Checked s t (s.regs.params.dstCap < outLen) (.ig 0x11) <|
  Checked s t (2 ^ 64 < s.regs.params.srcBase + s.regs.params.srcLen ∨ 2 ^ 64 < s.regs.params.dstBase + outLen)
    (.ig 0x12) <|
  Checked s t (ShareByte s.regs.params.srcBase s.regs.params.srcLen s.regs.params.dstBase outLen) (.ig 0x13) rest

/-- The outcome of an `.ADDR` once the family's checks pass (R125): IG 0x0A outside the domain, IG 0x0B where the address
does not fit 64 bits; else the address. -/
def AddrOutcome (s t : State) (inDomain : Prop) (a : Nat) : Prop :=
  Checked s t (¬ inDomain) (.ig 0x0A) <| Checked s t (2 ^ 64 ≤ a) (.ig 0x0B) <| ValueEffect s t a

/-- R121 placement of a layout, by linear position. -/
def Layout.Placed (lay : Layout) : Prop :=
  ∀ i, i < lay.count → lay.addr i + lay.unit ≤ lay.swzLen

/-- R121 disjointness of a layout, by linear position. -/
def Layout.Apart (lay : Layout) : Prop :=
  ∀ i j, i < lay.count → j < lay.count → i ≠ j →
    lay.addr i + lay.unit ≤ lay.addr j ∨ lay.addr j + lay.unit ≤ lay.addr i

/-- Position `j` of the swizzled buffer belongs to a unit. -/
def Layout.Covers (lay : Layout) (j : Nat) : Prop :=
  ∃ i, i < lay.count ∧ lay.addr i ≤ j ∧ j < lay.addr i + lay.unit

/-- The registers with another source and destination address: how a host points a second command at the first one's
output (R132). -/
def State.redirected (s : State) (srcBase srcLen dstBase dstCap : Address) : State :=
  { s with regs := { s.regs with params := { s.regs.params with
      srcBaseLo := srcBase.setWidth 32, srcBaseHi := (srcBase >>> 32).setWidth 32
      srcLenLo := srcLen.setWidth 32, srcLenHi := (srcLen >>> 32).setWidth 32
      dstBaseLo := dstBase.setWidth 32, dstBaseHi := (dstBase >>> 32).setWidth 32
      dstCapLo := dstCap.setWidth 32, dstCapHi := (dstCap >>> 32).setWidth 32 } } }

/-- The 4-bit texel `k` of the buffer at an address: R270's `NIB`. -/
def nibbleAt (m : Memory) (base k : Nat) : Nat :=
  (m.read (base + k / 2)).toNat / 16 ^ (k % 2) % 16

/-! ## What holds at all times -/

/-- What the result registers of an instance can hold: 0 after reset (R400); after a success, `STATUS` 1 and one of
`OUT_LEN` and `RESULT` 0 (R27, R28, R380); after an error, a word of R372 and zeros (R381). -/
def Results.Legal (r : Results) : Prop :=
  r = ⟨0, 0, 0, 0, 0⟩ ∨
  (r.status = 1 ∧ ((r.outLenLo = 0 ∧ r.outLenHi = 0) ∨ (r.resultLo = 0 ∧ r.resultHi = 0))) ∨
  ∃ e, e ∈ allErrors ∧ r = ⟨errorWord e, 0, 0, 0, 0⟩

/-- The invariant: memory is in canonical form, the addressed instance exists, and every instance's result registers are
legal. -/
structure Inv (s : State) : Prop where
  memory : s.mem.wf
  addressed : s.selected ≤ s.others.length
  results : ∀ f, f = s.regs ∨ f ∈ s.others → f.results.Legal

end Sys2Proof.Machine
end

