-- ==== Sys2Proof/Certificates/Slice0/Obligations.lean ====
section
/-! DEFINITION. The statements for the provers. Each is a proposition about the model, written in the terms of
Sys2Proof/Safety.lean; OBLIGATIONS.json lists them. -/

open Sys2Proof Sys2Proof.Machine

/-- Every word written to CMD decodes in the four steps of R91, the first failing step ending the command (R91).
For every word c and state, a 4-byte host write of c to CMD (offset 0 of the addressed instance) does this: if bits
[31:10] are not 0 the command ends in UP 0x01; else if bits [7:0] are no operation code, UP 0x02; else if bits [9:8]
are 3 and the operation code is not 0x01 or 0x02, UP 0x03; else the command with that OPC and FN runs. -/
def Obligations.CommandWordsFollowTheDecodeOrder : Prop :=
    ∀ (c : Word) (s : State),
    let reserved := c.toNat / 1024
    let opc := c.toNat % 256
    let fn := c.toNat / 256 % 4
    let codes := [0x01, 0x02, 0x03, 0x04, 0x05, 0x10, 0x11, 0x12, 0x20, 0x21, 0x22, 0x30, 0x40]
    let written := hostAccess (.regWrite 4 (.reg s.selected 0x000) c) s
    (reserved ≠ 0 → ∃ t, written = .next t ∧ ErrorEffect s t (.up 0x01)) ∧
    (reserved = 0 → opc ∉ codes → ∃ t, written = .next t ∧ ErrorEffect s t (.up 0x02)) ∧
    (reserved = 0 → opc ∈ codes → fn = 3 → opc ≠ 0x01 → opc ≠ 0x02 →
      ∃ t, written = .next t ∧ ErrorEffect s t (.up 0x03)) ∧
    (reserved = 0 → opc ∈ codes → (fn = 3 → opc = 0x01 ∨ opc = 0x02) →
      ∃ i, i.remapper.code = opc ∧ i.fn.code = fn ∧ written = exec i s)

/-- A word decodes to a command exactly when it is that command's encoding (30_encoding.md R90; R94).
For every 32-bit word c and every command i: decode c is i if and only if c is encode i. So decoding an encoded
command gives it back, no bit of a word is dropped, and exactly 41 words are commands. -/
def Obligations.DecodeAndEncodeAgree : Prop :=
    ∀ (c : Word) (i : Instr), decode c = .ok i ↔ c = encode i

/-- One word of each family, written out from the opcode map, decodes to its command (30_encoding.md R94).
The words 0x00000301, 0x00000102, 0x00000203, 0x00000004, 0x00000105, 0x00000210, 0x00000011, 0x00000112, 0x00000220,
0x00000021, 0x00000122, 0x00000230 and 0x00000040 decode to MORTON.IDX, MORTONR.SWZ, X360.ADDR, PS4.UNSWZ, PS5.SWZ,
BLK.ADDR, 3DS.UNSWZ, PSP.SWZ, PS2.8.ADDR, PS2.4.UNSWZ, PS2.PAL.SWZ, NSW.ADDR and WIIU.UNSWZ. -/
def Obligations.TableWordsDecode : Prop :=
    decode 0x00000301 = .ok .mortonIdx ∧
    decode 0x00000102 = .ok .mortonRSwz ∧
    decode 0x00000203 = .ok .x360Addr ∧
    decode 0x00000004 = .ok .ps4Unswz ∧
    decode 0x00000105 = .ok .ps5Swz ∧
    decode 0x00000210 = .ok .blkAddr ∧
    decode 0x00000011 = .ok .n3dsUnswz ∧
    decode 0x00000112 = .ok .pspSwz ∧
    decode 0x00000220 = .ok .ps28Addr ∧
    decode 0x00000021 = .ok .ps24Unswz ∧
    decode 0x00000122 = .ok .ps2PalSwz ∧
    decode 0x00000230 = .ok .nswAddr ∧
    decode 0x00000040 = .ok .wiiuUnswz

/-- A step whose access writes a command word to CMD runs that command on the addressed instance (10_state.md R25;
20_memory.md R70).
If the host's next access is a 4-byte write of c at offset 0 of an instance k that exists, and c decodes to a
well-formed command i, then step is exec i in the state that addresses instance k, with the access taken off the
pending list and memory as before. The same for the access withFetchWord places. That the host's accesses come from
the list pending, and that withFetchWord puts a CMD write in front of it, are the model's choice (log entry 2). -/
def Obligations.StepRunsTheDecodedCommand : Prop :=
    (∀ (s s' : State) (rest : List HostAccess) (k : Nat) (c : Word) (i : Instr),
      s.pending = .regWrite 4 (.reg k 0) c :: rest → (s.taking rest).select k = some s' →
      decode c = .ok i → i.wellFormed = true →
      step s = exec i s' ∧ s'.pending = rest ∧ s'.mem = s.mem ∧ s'.selected = k ∧
        (k = s.selected → s'.regs = s.regs ∧ s'.others = s.others) ∧
        (k ≠ s.selected → s.instances[k]? = some s'.regs)) ∧
    (∀ (s : State) (w : Nat) (i : Instr), w < 2 ^ 32 → decode (BitVec.ofNat 32 w) = .ok i →
      step (s.withFetchWord 32 w) = exec i (s.taking s.pending))

/-- A register access of another width, or at an unaligned offset, is refused; one outside the register space faults
(20_memory.md R61; 10_state.md R35).
In every state, for a read and a write: a width other than 4 bytes is refused (accessWidth); at the addressed
instance, an offset that is not a multiple of 4 is refused (accessAlignment), and an aligned offset of 256 or more
faults (outsideRegisterSpace). The faults are the model's reading of what lies outside the spaces R35 names (log entry
10). -/
def Obligations.MalformedRegisterAccessesStop : Prop :=
    ∀ (s : State) (bytes offset : Nat) (target : RegTarget) (v : Word),
    (bytes ≠ 4 → hostAccess (.regRead bytes target) s = .refused .accessWidth ∧
      hostAccess (.regWrite bytes target v) s = .refused .accessWidth) ∧
    (offset % 4 ≠ 0 → hostAccess (.regRead 4 (.reg s.selected offset)) s = .refused .accessAlignment ∧
      hostAccess (.regWrite 4 (.reg s.selected offset) v) s = .refused .accessAlignment) ∧
    (offset % 4 = 0 → 256 ≤ offset →
      hostAccess (.regRead 4 (.reg s.selected offset)) s = .fault .outsideRegisterSpace ∧
      hostAccess (.regWrite 4 (.reg s.selected offset) v) s = .fault .outsideRegisterSpace)

/-- An RW register reads back the last value written; a reserved offset reads 0 and ignores writes (R34).
The list is the map of the 36 parameter registers, offset by offset, each with the field of State that holds it. For
every state and value: reading such an offset answers its field and changes nothing else; a write there makes exactly
that field hold the value, so that reading the offset answers the value, and changes no other parameter register, no
result register, no memory byte and no other instance; at a reserved aligned offset (one R24 does not list) a read
answers 0 and a write changes nothing. No value is refused when written. -/
def Obligations.RegisterFileReadsBackItsWrites : Prop :=
    ∀ (s : State) (v : Word),
    let parameters : List (Nat × (Params → Word)) := [
      (0x020, (·.width)), (0x024, (·.height)), (0x028, (·.bpp)), (0x02C, (·.blockW)),
      (0x030, (·.blockH)), (0x034, (·.blockBytes)), (0x040, (·.srcBaseLo)), (0x044, (·.srcBaseHi)),
      (0x048, (·.srcLenLo)), (0x04C, (·.srcLenHi)), (0x050, (·.dstBaseLo)), (0x054, (·.dstBaseHi)),
      (0x058, (·.dstCapLo)), (0x05C, (·.dstCapHi)), (0x060, (·.coordX)), (0x064, (·.coordY)),
      (0x068, (·.coordT)), (0x080, (·.ps2SwizzleType)), (0x084, (·.palEntryBytes)), (0x088, (·.tileW)),
      (0x08C, (·.tileH)), (0x090, (·.swapUnit)), (0x094, (·.gobBlockH)), (0x098, (·.widthPad)),
      (0x09C, (·.heightPad)), (0x0A0, (·.wiiuFormat)), (0x0A4, (·.wiiuTileMode)), (0x0A8, (·.wiiuPitch)),
      (0x0AC, (·.wiiuSwizzle)), (0x0B0, (·.wiiuAa)), (0x0B4, (·.wiiuSlice)), (0x0B8, (·.wiiuSample)),
      (0x0BC, (·.wiiuNumSlices)), (0x0C0, (·.wiiuSurfHeight)), (0x0C4, (·.wiiuSurfSizeLo)), (0x0C8, (·.wiiuSurfSizeHi))]
    (∀ e ∈ parameters,
      hostAccess (.regRead 4 (.reg s.selected e.1)) s = .next { s with answer := .word (e.2 s.regs.params) } ∧
      ∃ t, hostAccess (.regWrite 4 (.reg s.selected e.1) v) s = .next t ∧
        e.2 t.regs.params = v ∧ (∀ e' ∈ parameters, e'.1 ≠ e.1 → e'.2 t.regs.params = e'.2 s.regs.params) ∧
        t.regs.results = s.regs.results ∧ t.mem = s.mem ∧ t.others = s.others ∧ t.selected = s.selected ∧
        hostAccess (.regRead 4 (.reg t.selected e.1)) t = .next { t with answer := .word v }) ∧
    (∀ offset ∈ [0x018, 0x01C, 0x038, 0x03C, 0x06C, 0x070, 0x074, 0x078, 0x07C, 0x0CC, 0x0D0, 0x0D4, 0x0D8, 0x0DC,
        0x0E0, 0x0E4, 0x0E8, 0x0EC, 0x0F0, 0x0F4, 0x0F8, 0x0FC],
      hostAccess (.regRead 4 (.reg s.selected offset)) s = .next { s with answer := .word 0 } ∧
      hostAccess (.regWrite 4 (.reg s.selected offset) v) s = .next s)

/-- STATUS, OUT_LEN and RESULT ignore host writes, and CMD reads 0 (10_state.md R25, R26, R27, R28).
In every state a host write to STATUS (0x004), OUT_LEN (0x008, 0x00C) or RESULT (0x010, 0x014) leaves the state as it
is; reading them answers the register; reading CMD (0x000) answers 0. -/
def Obligations.ReadOnlyRegistersIgnoreWrites : Prop :=
    ∀ (s : State) (v : Word),
    (∀ offset, offset ∈ [0x004, 0x008, 0x00C, 0x010, 0x014] →
      hostAccess (.regWrite 4 (.reg s.selected offset) v) s = .next s) ∧
    hostAccess (.regRead 4 (.reg s.selected 0x000)) s = .next { s with answer := .word 0 } ∧
    hostAccess (.regRead 4 (.reg s.selected 0x004)) s = .next { s with answer := .word s.regs.results.status } ∧
    hostAccess (.regRead 4 (.reg s.selected 0x008)) s = .next { s with answer := .word s.regs.results.outLenLo } ∧
    hostAccess (.regRead 4 (.reg s.selected 0x00C)) s = .next { s with answer := .word s.regs.results.outLenHi } ∧
    hostAccess (.regRead 4 (.reg s.selected 0x010)) s = .next { s with answer := .word s.regs.results.resultLo } ∧
    hostAccess (.regRead 4 (.reg s.selected 0x014)) s = .next { s with answer := .word s.regs.results.resultHi }

/-- After reset every register of every instance reads 0, and the platform's reset touches no memory
(70_reset_and_hazards.md R400, R401).
In State.reset every offset of every instance reads 0. From every state, a reset of all instances leaves every
instance so, and a reset of the addressed instance leaves that one so and the others as they were; memory is unchanged
in both. That a platform reset is an access of the host is the model's choice (log entry 14). -/
def Obligations.ResetLeavesEveryRegisterZero : Prop :=
    (∀ (f : RegFile) (offset : Nat), f ∈ State.reset.instances → f.readOffset offset = 0) ∧
    (∀ s : State, ∃ t, hostAccess .resetAll s = .next t ∧ t.mem = s.mem ∧
      t.instances.length = s.instances.length ∧
      ∀ (f : RegFile) (offset : Nat), f ∈ t.instances → f.readOffset offset = 0) ∧
    (∀ s : State, ∃ t, hostAccess (.resetInstance s.selected) s = .next t ∧ t.mem = s.mem ∧ t.others = s.others ∧
      ∀ offset : Nat, t.regs.readOffset offset = 0)

/-- The machine after reset meets the invariant (70_reset_and_hazards.md R400; 60_exceptions.md R372).
In State.reset memory is in canonical form, the addressed instance exists, and every instance's result registers are
legal. That memory has nothing listed and instance 0 is addressed is the model's choice (log entries 1 and 11). -/
def Obligations.ResetMeetsTheInvariant : Prop :=
    Inv State.reset

/-- Every step keeps memory canonical, the addressed instance in range, and every STATUS word one of those the spec
lists (60_exceptions.md R372, R380, R381; 10_state.md R26, R27, R28; 20_memory.md R60, R64).
For every state that meets the invariant, if step answers a next state, that state meets it: the memory list stays in
its canonical form with every address below 2^64, the addressed instance exists, and in every instance the result
registers are those of reset, of a success (STATUS 1, and OUT_LEN or RESULT 0) or of one of the 31 errors of R372 (its
word, and zeros). The canonical form and the addressed instance are the model's own (log entries 1 and 11). -/
def Obligations.EveryStepKeepsTheInvariant : Prop :=
    ∀ s t : State, Inv s → step s = .next t → Inv t

/-- Every command ends in a next state: a precise error, a value, or output bytes in the destination range only
(R381).
For every command and state, exec answers a next state, which is one of three: the state before but for an error's
word in STATUS and zeros in OUT_LEN and RESULT (R381); for an ADDR or IDX command, the state before but for STATUS 1
and the value in RESULT; for a SWZ or UNSWZ command, STATUS 1, OUT_LEN the output length, RESULT 0, no parameter
register and no other instance changed, and no byte of memory changed outside the OUT_LEN bytes from DST_BASE. -/
def Obligations.EveryCommandEndsInOneOfTwoWays : Prop :=
    ∀ (i : Instr) (s : State), ∃ t, exec i s = .next t ∧
    ((∃ e, e ∈ allErrors ∧ ErrorEffect s t e) ∨
     ((i.fn = .addr ∨ i.fn = .idx) ∧ ∃ v, ValueEffect s t v) ∨
     ((i.fn = .unswz ∨ i.fn = .swz) ∧ ∃ n, n ≤ s.regs.params.dstCap ∧ s.regs.params.dstBase + n ≤ 2 ^ 64 ∧
       OutputFrame s t n))

/-- An ADDR or IDX command neither reads nor writes external memory (10_state.md R35; 40_remap_contract.md R125).
For every ADDR or IDX command and every state: exec answers a next state with memory as before, and with any other
memory in its place the command leaves the same register file. -/
def Obligations.AddrAndIdxTouchNoMemory : Prop :=
    ∀ (i : Instr) (s : State) (m : Memory), i.fn = .addr ∨ i.fn = .idx →
    ∃ t, exec i s = .next t ∧ t.mem = s.mem ∧ exec i { s with mem := m } = .next { t with mem := m }

/-- A command's outcome depends on the parameter registers, the command and the source bytes only (R136).
For every command and any two states with the same parameter registers and the same bytes at the SRC_LEN addresses
from SRC_BASE: both runs end in the same STATUS, OUT_LEN and RESULT, and the OUT_LEN bytes from DST_BASE are the same
after both. No other byte, no earlier result and no other instance matters. -/
def Obligations.OutcomeDependsOnItsInputsOnly : Prop :=
    ∀ (i : Instr) (s s' : State), s'.regs.params = s.regs.params →
    (∀ k, k < s.regs.params.srcLen →
      s'.mem.read (s.regs.params.srcBase + k) = s.mem.read (s.regs.params.srcBase + k)) →
    ∃ t t', exec i s = .next t ∧ exec i s' = .next t' ∧ t'.regs.results = t.regs.results ∧
      ∀ k, k < pair t.regs.results.outLenHi t.regs.results.outLenLo →
        t'.mem.read (s.regs.params.dstBase + k) = t.mem.read (s.regs.params.dstBase + k)

/-- A register access or reset of one instance changes no register of another instance (60_exceptions.md R384, R390).
For every state whose addressed instance exists: if a register read, a register write (a command among them) or a
reset that addresses instance k answers a next state, every instance other than k holds the registers it held. How the
register files are held is the model's choice (log entry 11). -/
def Obligations.AccessesToOneInstanceLeaveTheOthers : Prop :=
    ∀ (s t : State) (a : HostAccess) (k : Nat), s.selected ≤ s.others.length →
    (∃ bytes offset v, a = .regRead bytes (.reg k offset) ∨ a = .regWrite bytes (.reg k offset) v ∨
      a = .resetInstance k) →
    hostAccess a s = .next t →
    t.instances.length = s.instances.length ∧ ∀ j, j ≠ k → t.instances[j]? = s.instances[j]?

/-- Commands of two instances on disjoint buffers give the same memory and registers in either order (20_memory.md
R74; 60_exceptions.md R390).
Take two distinct instances j and k and a command word for each. If neither command's destination region (DST_CAP
bytes from DST_BASE) meets the other's source range or destination region, then running j's command and then k's gives
the same bytes of memory and the same registers of every instance as running k's and then j's. -/
def Obligations.CommandsOnDisjointBuffersCommute : Prop :=
    ∀ (s a b a' b' : State) (j k : Nat) (cj ck : Word) (fj fk : RegFile),
    s.selected ≤ s.others.length → j ≠ k → s.instances[j]? = some fj → s.instances[k]? = some fk →
    (∀ x, fj.params.dstBase ≤ x → x < fj.params.dstBase + fj.params.dstCap →
      ¬ (fk.params.srcBase ≤ x ∧ x < fk.params.srcBase + fk.params.srcLen) ∧
      ¬ (fk.params.dstBase ≤ x ∧ x < fk.params.dstBase + fk.params.dstCap)) →
    (∀ x, fk.params.dstBase ≤ x → x < fk.params.dstBase + fk.params.dstCap →
      ¬ (fj.params.srcBase ≤ x ∧ x < fj.params.srcBase + fj.params.srcLen)) →
    hostAccess (.regWrite 4 (.reg j 0) cj) s = .next a → hostAccess (.regWrite 4 (.reg k 0) ck) a = .next b →
    hostAccess (.regWrite 4 (.reg k 0) ck) s = .next a' → hostAccess (.regWrite 4 (.reg j 0) cj) a' = .next b' →
    (∀ x, b.mem.read x = b'.mem.read x) ∧ ∀ n : Nat, b.instances[n]? = b'.instances[n]?

/-- A host store changes one byte of memory and, as the model reads R35, no register; a host read answers the byte
(20_memory.md R60; 30_encoding.md R100; 10_state.md R35).
In every state: a host store of v at address x makes x read v and leaves every other address and all registers as they
were; a host read of x answers the byte and changes nothing else. That a host store leaves all registers as they were
is the model's reading of the two address spaces of R35 (log entry 12): R60 and R100 do not say it. -/
def Obligations.HostMemoryAccesses : Prop :=
    ∀ (s : State) (x : Address) (v : Byte),
    (∃ t, hostAccess (.memWrite x v) s = .next t ∧ t.mem.read x.toNat = v ∧
      (∀ a, a ≠ x.toNat → t.mem.read a = s.mem.read a) ∧ t.regs = s.regs ∧ t.others = s.others) ∧
    hostAccess (.memRead x) s = .next { s with answer := .byte (s.mem.read x.toNat) }

/-- MIDX and MIDXR deal the bits of t alternately to x and y while both dimensions remain (41_morton_index.md R150,
R151, R154).
For W = 2^p and H = 2^q and every t: MIDX(t, W, H) is ya * W + xa, where bit i of xa (i < p) is bit i + min(i, q) of t
and bit j of ya (j < q) is bit j + min(j + 1, p) of t; MIDXR the same with y first: bit j of ya is bit j + min(j, p)
and bit i of xa is bit i + min(i + 1, q). -/
def Obligations.MidxDealsTheBitsOfT : Prop :=
    ∀ p q t : Nat,
    (∃ xa ya, midx t (2 ^ p) (2 ^ q) = ya * 2 ^ p + xa ∧ xa < 2 ^ p ∧ ya < 2 ^ q ∧
      (∀ i, i < p → xa.testBit i = t.testBit (i + min i q)) ∧
      (∀ j, j < q → ya.testBit j = t.testBit (j + min (j + 1) p))) ∧
    (∃ xa ya, midxr t (2 ^ p) (2 ^ q) = ya * 2 ^ p + xa ∧ xa < 2 ^ p ∧ ya < 2 ^ q ∧
      (∀ j, j < q → ya.testBit j = t.testBit (j + min j p)) ∧
      (∀ i, i < p → xa.testBit i = t.testBit (i + min (i + 1) q)))

/-- ILV and ILVR invert MIDX and MIDXR for power-of-two dimensions (41_morton_index.md R152).
For W = 2^p, H = 2^q, x < W and y < H: ILV(x, y, W, H) and ILVR(x, y, W, H) are below W * H, and MIDX(ILV(x, y, W, H),
W, H) and MIDXR(ILVR(x, y, W, H), W, H) are both y * W + x. -/
def Obligations.IlvInvertsMidx : Prop :=
    ∀ p q x y : Nat, x < 2 ^ p → y < 2 ^ q →
    ilv x y (2 ^ p) (2 ^ q) < 2 ^ p * 2 ^ q ∧ ilvr x y (2 ^ p) (2 ^ q) < 2 ^ p * 2 ^ q ∧
    midx (ilv x y (2 ^ p) (2 ^ q)) (2 ^ p) (2 ^ q) = y * 2 ^ p + x ∧
    midxr (ilvr x y (2 ^ p) (2 ^ q)) (2 ^ p) (2 ^ q) = y * 2 ^ p + x

/-- MIDX and MIDXR are bijections on 0..W*H-1 when W and H are powers of two, and MIDX is none at 3 x 3
(41_morton_index.md R153).
For W = 2^p and H = 2^q, every n below W * H is MIDX(t, W, H) of exactly one t below W * H, and MIDXR likewise;
MIDX(t, 3, 3) for t = 0 to 8 is 0, 1, 3, 4, 0, 1, 3, 4, 0. -/
def Obligations.MidxIsABijectionOnPowersOfTwo : Prop :=
    (∀ p q n : Nat, n < 2 ^ p * 2 ^ q →
      (∃ t, (t < 2 ^ p * 2 ^ q ∧ midx t (2 ^ p) (2 ^ q) = n) ∧
        ∀ t', t' < 2 ^ p * 2 ^ q → midx t' (2 ^ p) (2 ^ q) = n → t' = t) ∧
      (∃ t, (t < 2 ^ p * 2 ^ q ∧ midxr t (2 ^ p) (2 ^ q) = n) ∧
        ∀ t', t' < 2 ^ p * 2 ^ q → midxr t' (2 ^ p) (2 ^ q) = n → t' = t)) ∧
    (List.range 9).map (fun t => midx t 3 3) = [0, 1, 3, 4, 0, 1, 3, 4, 0]

/-- MIDX and MIDXR stay below W * H for every size, power of two or not (41_morton_index.md R156, R157).
For all W, H >= 1 and every t, MIDX(t, W, H) and MIDXR(t, W, H) are below W * H. -/
def Obligations.MidxStaysInTheImage : Prop :=
    ∀ t W H : Nat, 1 ≤ W → 1 ≤ H → midx t W H < W * H ∧ midxr t W H < W * H

/-- MORTON.IDX and MORTONR.IDX return MIDX and MIDXR, below W * H, or raise IG 0x01 or IG 0x0A (R156; R157).
The words 0x00000301 and 0x00000302 decode to the two commands. In every state each answers a next state: IG 0x01 when
WIDTH or HEIGHT is 0; else IG 0x0A when COORD_T >= WIDTH * HEIGHT; else RESULT is MIDX(t, W, H) (MIDXR for
MORTONR.IDX), which is below W * H, OUT_LEN is 0 and nothing else changes but STATUS. -/
def Obligations.IdxCommandsReturnTheMortonIndex : Prop :=
    decode 0x00000301 = .ok .mortonIdx ∧
    decode 0x00000302 = .ok .mortonRIdx ∧
    ∀ s : State,
      let W := s.regs.params.width.toNat
      let H := s.regs.params.height.toNat
      let t₀ := s.regs.params.coordT.toNat
      (∃ t, exec .mortonIdx s = .next t ∧
        (SizeChecked s t (Checked s t (W * H ≤ t₀) (.ig 0x0A) (midx t₀ W H < W * H ∧ ValueEffect s t (midx t₀ W H))))) ∧
      (∃ t, exec .mortonRIdx s = .next t ∧
        (SizeChecked s t (Checked s t (W * H ≤ t₀) (.ig 0x0A) (midxr t₀ W H < W * H ∧ ValueEffect s t (midxr t₀ W H)))))

/-- MORTON and MORTONR SWZ/UNSWZ keep linear unit MIDX(t) (MIDXR(t)) at swizzled unit t (43_morton_family.md R211,
R212, R213, R215, R216, R217).
In every state each command answers a next state. In order: IG 0x01, IG 0x02, IG 0x04 when the width or height in
units is no power of two; then IG 0x10 when SRC_LEN is not the expected length, 0x11 when DST_CAP is below the output
length, 0x12 when a buffer passes 2^64, 0x13 when the ranges share a byte. Else the next state has STATUS 1, OUT_LEN
the output length, RESULT 0; byte k of every unit is moved between its linear place and where the layout keeps it;
every byte of a SWZ output that belongs to no unit is 0; every byte outside the output range, every parameter register
and the other instances are as before. The layout: swizzled unit t holds the linear unit MIDX(t, w, h) (MORTONR:
MIDXR). -/
def Obligations.MortonRemapsFollowTheMortonIndex : Prop :=
    decode 0x00000001 = .ok .mortonUnswz ∧
    decode 0x00000101 = .ok .mortonSwz ∧
    decode 0x00000002 = .ok .mortonRUnswz ∧
    decode 0x00000102 = .ok .mortonRSwz ∧
    ∀ s : State,
      let p := s.regs.params
      let w := p.unitsW
      let h := p.unitsH
      let B := p.unitBytes
      let m : UnitMap Nat := ⟨fun n => n < w * h, fun n => midx n w h, fun n k => n * B + k, B, w * h * B, w * h * B⟩
      let mr : UnitMap Nat := ⟨fun n => n < w * h, fun n => midxr n w h, fun n k => n * B + k, B, w * h * B, w * h * B⟩
      (∃ t, exec .mortonUnswz s = .next t ∧
        (SizeChecked s t <| BlockChecked s t <| Checked s t (¬ ((∃ a, w = 2 ^ a) ∧ ∃ b, h = 2 ^ b)) (.ig 0x04) <|
          BufferChecked s t (w * h * B) (w * h * B) (UnswzEffect m s t))) ∧
      (∃ t, exec .mortonSwz s = .next t ∧
        (SizeChecked s t <| BlockChecked s t <| Checked s t (¬ ((∃ a, w = 2 ^ a) ∧ ∃ b, h = 2 ^ b)) (.ig 0x04) <|
          BufferChecked s t (w * h * B) (w * h * B) (SwzEffect m s t))) ∧
      (∃ t, exec .mortonRUnswz s = .next t ∧
        (SizeChecked s t <| BlockChecked s t <| Checked s t (¬ ((∃ a, w = 2 ^ a) ∧ ∃ b, h = 2 ^ b)) (.ig 0x04) <|
          BufferChecked s t (w * h * B) (w * h * B) (UnswzEffect mr s t))) ∧
      (∃ t, exec .mortonRSwz s = .next t ∧
        (SizeChecked s t <| BlockChecked s t <| Checked s t (¬ ((∃ a, w = 2 ^ a) ∧ ∃ b, h = 2 ^ b)) (.ig 0x04) <|
          BufferChecked s t (w * h * B) (w * h * B) (SwzEffect mr s t)))

/-- MORTON.ADDR and MORTONR.ADDR return ILV and ILVR of the coordinates times the unit size (43_morton_family.md R214,
R218).
In every state each command answers a next state. In order: IG 0x01, 0x02, 0x04, then 0x0A when the coordinates are
outside the image, 0x0B when the offset is 2^64 or more; else RESULT = ILV(COORD_X, COORD_Y, w, h) * B (ILVR for
MORTONR). -/
def Obligations.MortonAddrReturnsTheInterleavedIndex : Prop :=
    decode 0x00000201 = .ok .mortonAddr ∧
    decode 0x00000202 = .ok .mortonRAddr ∧
    ∀ s : State,
      let p := s.regs.params
      let w := p.unitsW
      let h := p.unitsH
      let B := p.unitBytes
      (∃ t, exec .mortonAddr s = .next t ∧
        (SizeChecked s t <| BlockChecked s t <| Checked s t (¬ ((∃ a, w = 2 ^ a) ∧ ∃ b, h = 2 ^ b)) (.ig 0x04) <|
          AddrOutcome s t (p.coordX.toNat < w ∧ p.coordY.toNat < h) (ilv p.coordX.toNat p.coordY.toNat w h * B))) ∧
      (∃ t, exec .mortonRAddr s = .next t ∧
        (SizeChecked s t <| BlockChecked s t <| Checked s t (¬ ((∃ a, w = 2 ^ a) ∧ ∃ b, h = 2 ^ b)) (.ig 0x04) <|
          AddrOutcome s t (p.coordX.toNat < w ∧ p.coordY.toNat < h) (ilvr p.coordX.toNat p.coordY.toNat w h * B)))

/-- X360 SWZ/UNSWZ keep unit (x, y) at XGOFF(x, y) * B, with the byte swap on the swizzled side (43_morton_family.md
R220, R222, R223, R225, R226, R227).
In every state each command answers a next state. In order: UP 0x12 when SWAP_UNIT > 2, UP 0x13 when B is not 1, 2, 4,
8 or 16, IG 0x01, IG 0x02, IG 0x05 when w is no multiple of 32 or h none of HA(B); then IG 0x10 when SRC_LEN is not
the expected length, 0x11 when DST_CAP is below the output length, 0x12 when a buffer passes 2^64, 0x13 when the
ranges share a byte. Else the next state has STATUS 1, OUT_LEN the output length, RESULT 0; byte k of every unit is
moved between its linear place and where the layout keeps it; every byte of a SWZ output that belongs to no unit is 0;
every byte outside the output range, every parameter register and the other instances are as before. Byte k of unit
(x, y) is kept at position XGOFF(x, y, w, B) * B + k of the tiled buffer, moved by the byte swap SWAP_UNIT selects. -/
def Obligations.X360RemapsTileAndSwap : Prop :=
    decode 0x00000003 = .ok .x360Unswz ∧
    decode 0x00000103 = .ok .x360Swz ∧
    ∀ s : State,
      let p := s.regs.params
      let w := p.unitsW
      let h := p.unitsH
      let B := p.unitBytes
      let ha := if B = 1 then 128 else if B = 2 then 64 else 32
      let m : UnitMap (Nat × Nat) := { gridMap w h B (w * h * B) (fun _ _ => 0) with
        place := fun u k => swapPlace p.swapUnit.toNat (xgOff u.1 u.2 w B * B + k) }
      (∃ t, exec .x360Unswz s = .next t ∧ (Checked s t (2 < p.swapUnit.toNat) (.up 0x12) <|
        Checked s t (B ∉ [1, 2, 4, 8, 16]) (.up 0x13) <| SizeChecked s t <| BlockChecked s t <|
          Checked s t (w % 32 ≠ 0 ∨ h % ha ≠ 0) (.ig 0x05) <|
          BufferChecked s t (w * h * B) (w * h * B) (UnswzEffect m s t))) ∧
      (∃ t, exec .x360Swz s = .next t ∧ (Checked s t (2 < p.swapUnit.toNat) (.up 0x12) <|
        Checked s t (B ∉ [1, 2, 4, 8, 16]) (.up 0x13) <| SizeChecked s t <| BlockChecked s t <|
          Checked s t (w % 32 ≠ 0 ∨ h % ha ≠ 0) (.ig 0x05) <|
          BufferChecked s t (w * h * B) (w * h * B) (SwzEffect m s t)))

/-- X360.ADDR returns XGOFF * B and does not read SWAP_UNIT (43_morton_family.md R228).
In every state each command answers a next state. In order: UP 0x13, IG 0x01, 0x02, 0x05, then 0x0A outside the image
and 0x0B at 2^64 or more; else RESULT = XGOFF(COORD_X, COORD_Y, w, B) * B, whatever SWAP_UNIT holds. -/
def Obligations.X360AddrIgnoresTheSwap : Prop :=
    decode 0x00000203 = .ok .x360Addr ∧
    ∀ s : State,
      let p := s.regs.params
      let w := p.unitsW
      let h := p.unitsH
      let B := p.unitBytes
      let ha := if B = 1 then 128 else if B = 2 then 64 else 32
      ∃ t, exec .x360Addr s = .next t ∧
        (Checked s t (B ∉ [1, 2, 4, 8, 16]) (.up 0x13) <| SizeChecked s t <| BlockChecked s t <|
          Checked s t (w % 32 ≠ 0 ∨ h % ha ≠ 0) (.ig 0x05) <|
          AddrOutcome s t (p.coordX.toNat < w ∧ p.coordY.toNat < h) (xgOff p.coordX.toNat p.coordY.toNat w B * B))

/-- PS4 SWZ/UNSWZ use the tiled-Morton layout with 8 x 8 super-tiles (43_morton_family.md R230, R231, R234, R235).
In every state each command answers a next state. In order: IG 0x01, IG 0x02; then IG 0x10 when SRC_LEN is not the
expected length, 0x11 when DST_CAP is below the output length, 0x12 when a buffer passes 2^64, 0x13 when the ranges
share a byte. Else the next state has STATUS 1, OUT_LEN the output length, RESULT 0; byte k of every unit is moved
between its linear place and where the layout keeps it; every byte of a SWZ output that belongs to no unit is 0; every
byte outside the output range, every parameter register and the other instances are as before. The layout is TM(8, 8)
of R231: full tiles in Morton order, edge tiles row-major, no padding. -/
def Obligations.Ps4RemapsUse8x8SuperTiles : Prop :=
    decode 0x00000004 = .ok .ps4Unswz ∧
    decode 0x00000104 = .ok .ps4Swz ∧
    ∀ s : State,
      let p := s.regs.params
      let w := p.unitsW
      let h := p.unitsH
      let B := p.unitBytes
      (∃ t, exec .ps4Unswz s = .next t ∧ (SizeChecked s t <| BlockChecked s t <|
        BufferChecked s t (w * h * B) (w * h * B) (UnswzEffect (gridMap w h B (w * h * B) (tmAddr 8 8 w h B)) s t))) ∧
      (∃ t, exec .ps4Swz s = .next t ∧ (SizeChecked s t <| BlockChecked s t <|
        BufferChecked s t (w * h * B) (w * h * B) (SwzEffect (gridMap w h B (w * h * B) (tmAddr 8 8 w h B)) s t)))

/-- PS4.ADDR returns the offset in the 8 x 8 super-tiled layout (43_morton_family.md R231, R236).
In every state each command answers a next state. In order: IG 0x01, 0x02, 0x0A, 0x0B; else RESULT is the offset TM(8,
8) gives the unit. -/
def Obligations.Ps4AddrInSuperTiledOrder : Prop :=
    decode 0x00000204 = .ok .ps4Addr ∧
    ∀ s : State,
      let p := s.regs.params
      let w := p.unitsW
      let h := p.unitsH
      let B := p.unitBytes
      ∃ t, exec .ps4Addr s = .next t ∧
        (SizeChecked s t <| BlockChecked s t <|
          AddrOutcome s t (p.coordX.toNat < w ∧ p.coordY.toNat < h) (tmAddr 8 8 w h B p.coordX.toNat p.coordY.toNat))

/-- PS5 SWZ/UNSWZ use the super-tile PS5_TILE(B) gives, and raise UP 0x23 where it is undefined (43_morton_family.md
R237, R241, R242).
In every state each command answers a next state. UP 0x23 when PS5_TILE(B) is undefined; else, in order: IG 0x01, IG
0x02; then IG 0x10 when SRC_LEN is not the expected length, 0x11 when DST_CAP is below the output length, 0x12 when a
buffer passes 2^64, 0x13 when the ranges share a byte. Else the next state has STATUS 1, OUT_LEN the output length,
RESULT 0; byte k of every unit is moved between its linear place and where the layout keeps it; every byte of a SWZ
output that belongs to no unit is 0; every byte outside the output range, every parameter register and the other
instances are as before. The layout is TM(32, 16) or TM(16, 16) as PS5_TILE(B) says, whatever value it has. -/
def Obligations.Ps5RemapsUseTheOpenSuperTile : Prop :=
    decode 0x00000005 = .ok .ps5Unswz ∧
    decode 0x00000105 = .ok .ps5Swz ∧
    ∀ s : State,
      let p := s.regs.params
      let w := p.unitsW
      let h := p.unitsH
      let B := p.unitBytes
      let tw := fun tile : Ps5Tile => if tile = .tile32x16 then 32 else 16
      let m := fun tile => gridMap w h B (w * h * B) (tmAddr (tw tile) 16 w h B)
      (∃ t, exec .ps5Unswz s = .next t ∧
        ((Config.ps5Tile B = none ∧ ErrorEffect s t (.up 0x23)) ∨
         ∃ tile, Config.ps5Tile B = some tile ∧ (SizeChecked s t <| BlockChecked s t <|
          BufferChecked s t (w * h * B) (w * h * B) (UnswzEffect (m tile) s t)))) ∧
      (∃ t, exec .ps5Swz s = .next t ∧
        ((Config.ps5Tile B = none ∧ ErrorEffect s t (.up 0x23)) ∨
         ∃ tile, Config.ps5Tile B = some tile ∧ (SizeChecked s t <| BlockChecked s t <|
          BufferChecked s t (w * h * B) (w * h * B) (SwzEffect (m tile) s t))))

/-- PS5.ADDR returns the offset in the layout of the super-tile PS5_TILE(B) gives (43_morton_family.md R237, R243).
In every state each command answers a next state. UP 0x23 when PS5_TILE(B) is undefined; else, in order: IG 0x01,
0x02, 0x0A, 0x0B; else RESULT is the offset TM(32, 16) or TM(16, 16) gives the unit. -/
def Obligations.Ps5AddrInSuperTiledOrder : Prop :=
    decode 0x00000205 = .ok .ps5Addr ∧
    ∀ s : State,
      let p := s.regs.params
      let w := p.unitsW
      let h := p.unitsH
      let B := p.unitBytes
      let tw := fun tile : Ps5Tile => if tile = .tile32x16 then 32 else 16
      (∃ t, exec .ps5Addr s = .next t ∧
        ((Config.ps5Tile B = none ∧ ErrorEffect s t (.up 0x23)) ∨
         ∃ tile, Config.ps5Tile B = some tile ∧ (SizeChecked s t <| BlockChecked s t <|
          AddrOutcome s t (p.coordX.toNat < w ∧ p.coordY.toNat < h) (tmAddr (tw tile) 16 w h B p.coordX.toNat p.coordY.toNat))))

/-- BLK SWZ/UNSWZ store row-major tiles of row-major units, edge tiles whole with zero padding (42_block_tiled.md
R171, R174, R175; 40_remap_contract.md R127).
In every state each command answers a next state. In order: IG 0x01, IG 0x02, IG 0x03 when TILE_W or TILE_H is 0; then
IG 0x10 when SRC_LEN is not the expected length, 0x11 when DST_CAP is below the output length, 0x12 when a buffer
passes 2^64, 0x13 when the ranges share a byte. Else the next state has STATUS 1, OUT_LEN the output length, RESULT 0;
byte k of every unit is moved between its linear place and where the layout keeps it; every byte of a SWZ output that
belongs to no unit is 0; every byte outside the output range, every parameter register and the other instances are as
before. Unit (x, y) is at ((y // TH * tpr + x // TW) * (TW * TH) + y % TH * TW + x % TW) * B, with tpr = ceil(w, TW),
and Lswz = tpr * ceil(h, TH) * TW * TH * B. -/
def Obligations.BlkRemapsTileRowMajor : Prop :=
    decode 0x00000010 = .ok .blkUnswz ∧
    decode 0x00000110 = .ok .blkSwz ∧
    ∀ s : State,
      let p := s.regs.params
      let w := p.unitsW
      let h := p.unitsH
      let B := p.unitBytes
      let TW := p.tileW.toNat
      let TH := p.tileH.toNat
      let tpr := (w + TW - 1) / TW
      let A := fun x y => ((y / TH * tpr + x / TW) * (TW * TH) + y % TH * TW + x % TW) * B
      let L := tpr * ((h + TH - 1) / TH) * TW * TH * B
      (∃ t, exec .blkUnswz s = .next t ∧ (SizeChecked s t <| BlockChecked s t <| Checked s t (p.tileW = 0 ∨ p.tileH = 0) (.ig 0x03) <|
        BufferChecked s t L (w * h * B) (UnswzEffect (gridMap w h B L A) s t))) ∧
      (∃ t, exec .blkSwz s = .next t ∧ (SizeChecked s t <| BlockChecked s t <| Checked s t (p.tileW = 0 ∨ p.tileH = 0) (.ig 0x03) <|
        BufferChecked s t (w * h * B) L (SwzEffect (gridMap w h B L A) s t)))

/-- BLK.ADDR returns the offset of the unit in the tiled buffer (42_block_tiled.md R171, R176).
In every state each command answers a next state. In order: IG 0x01, 0x02, 0x03, 0x0A, 0x0B; else RESULT is the offset
the formula of R171 gives. -/
def Obligations.BlkAddrOfAUnit : Prop :=
    decode 0x00000210 = .ok .blkAddr ∧
    ∀ s : State,
      let p := s.regs.params
      let w := p.unitsW
      let h := p.unitsH
      let B := p.unitBytes
      let TW := p.tileW.toNat
      let TH := p.tileH.toNat
      let tpr := (w + TW - 1) / TW
      let A := fun x y => ((y / TH * tpr + x / TW) * (TW * TH) + y % TH * TW + x % TW) * B
      ∃ t, exec .blkAddr s = .next t ∧
        (SizeChecked s t <| BlockChecked s t <| Checked s t (p.tileW = 0 ∨ p.tileH = 0) (.ig 0x03) <|
          AddrOutcome s t (p.coordX.toNat < w ∧ p.coordY.toNat < h) (A p.coordX.toNat p.coordY.toNat))

/-- 3DS SWZ/UNSWZ store row-major 8 x 8 tiles in Morton order inside (42_block_tiled.md R180, R182, R183).
In every state each command answers a next state. In order: IG 0x01, IG 0x02, IG 0x05 when w or h is no multiple of 8;
then IG 0x10 when SRC_LEN is not the expected length, 0x11 when DST_CAP is below the output length, 0x12 when a buffer
passes 2^64, 0x13 when the ranges share a byte. Else the next state has STATUS 1, OUT_LEN the output length, RESULT 0;
byte k of every unit is moved between its linear place and where the layout keeps it; every byte of a SWZ output that
belongs to no unit is 0; every byte outside the output range, every parameter register and the other instances are as
before. Unit (x, y) is at ((y // 8 * (w // 8) + x // 8) * 64 + ILV(x % 8, y % 8, 8, 8)) * B. -/
def Obligations.N3dsRemapsTile8x8Morton : Prop :=
    decode 0x00000011 = .ok .n3dsUnswz ∧
    decode 0x00000111 = .ok .n3dsSwz ∧
    ∀ s : State,
      let p := s.regs.params
      let w := p.unitsW
      let h := p.unitsH
      let B := p.unitBytes
      let A := fun x y => ((y / 8 * (w / 8) + x / 8) * 64 + ilv (x % 8) (y % 8) 8 8) * B
      (∃ t, exec .n3dsUnswz s = .next t ∧ (SizeChecked s t <| BlockChecked s t <| Checked s t (w % 8 ≠ 0 ∨ h % 8 ≠ 0) (.ig 0x05) <|
        BufferChecked s t (w * h * B) (w * h * B) (UnswzEffect (gridMap w h B (w * h * B) A) s t))) ∧
      (∃ t, exec .n3dsSwz s = .next t ∧ (SizeChecked s t <| BlockChecked s t <| Checked s t (w % 8 ≠ 0 ∨ h % 8 ≠ 0) (.ig 0x05) <|
        BufferChecked s t (w * h * B) (w * h * B) (SwzEffect (gridMap w h B (w * h * B) A) s t)))

/-- 3DS.ADDR returns the offset of the unit in the tiled buffer (42_block_tiled.md R180, R184).
In every state each command answers a next state. In order: IG 0x01, 0x02, 0x05, 0x0A, 0x0B; else RESULT is the offset
the formula of R180 gives. -/
def Obligations.N3dsAddrOfAUnit : Prop :=
    decode 0x00000211 = .ok .n3dsAddr ∧
    ∀ s : State,
      let p := s.regs.params
      let w := p.unitsW
      let h := p.unitsH
      let B := p.unitBytes
      let A := fun x y => ((y / 8 * (w / 8) + x / 8) * 64 + ilv (x % 8) (y % 8) 8 8) * B
      ∃ t, exec .n3dsAddr s = .next t ∧
        (SizeChecked s t <| BlockChecked s t <| Checked s t (w % 8 ≠ 0 ∨ h % 8 ≠ 0) (.ig 0x05) <|
          AddrOutcome s t (p.coordX.toNat < w ∧ p.coordY.toNat < h) (A p.coordX.toNat p.coordY.toNat))

/-- PSP SWZ/UNSWZ store row-major blocks of 16 bytes by 8 rows (42_block_tiled.md R190, R193, R194).
In every state each command answers a next state. In order: UP 0x16 when BPP is not 4, 8, 16 or 32, IG 0x01, IG 0x05
when WIDTH * BPP is no multiple of 8, the row of Wb bytes none of 16 or HEIGHT none of 8; then IG 0x10 when SRC_LEN is
not the expected length, 0x11 when DST_CAP is below the output length, 0x12 when a buffer passes 2^64, 0x13 when the
ranges share a byte. Else the next state has STATUS 1, OUT_LEN the output length, RESULT 0; byte k of every unit is
moved between its linear place and where the layout keeps it; every byte of a SWZ output that belongs to no unit is 0;
every byte outside the output range, every parameter register and the other instances are as before. Byte column i of
row j is at (j // 8 * (Wb // 16) + i // 16) * 128 + j % 8 * 16 + i % 16. -/
def Obligations.PspRemapsBlocksOf16x8 : Prop :=
    decode 0x00000012 = .ok .pspUnswz ∧
    decode 0x00000112 = .ok .pspSwz ∧
    ∀ s : State,
      let p := s.regs.params
      let w := p.width.toNat * p.bpp.toNat / 8
      let h := p.height.toNat
      let A := fun i j => (j / 8 * (w / 16) + i / 16) * 128 + j % 8 * 16 + i % 16
      (∃ t, exec .pspUnswz s = .next t ∧ (Checked s t (p.bpp.toNat ∉ [4, 8, 16, 32]) (.up 0x16) <| SizeChecked s t <|
          Checked s t (p.width.toNat * p.bpp.toNat % 8 ≠ 0 ∨ w % 16 ≠ 0 ∨ h % 8 ≠ 0) (.ig 0x05) <|
        BufferChecked s t (w * h) (w * h) (UnswzEffect (gridMap w h 1 (w * h) A) s t))) ∧
      (∃ t, exec .pspSwz s = .next t ∧ (Checked s t (p.bpp.toNat ∉ [4, 8, 16, 32]) (.up 0x16) <| SizeChecked s t <|
          Checked s t (p.width.toNat * p.bpp.toNat % 8 ≠ 0 ∨ w % 16 ≠ 0 ∨ h % 8 ≠ 0) (.ig 0x05) <|
        BufferChecked s t (w * h) (w * h) (SwzEffect (gridMap w h 1 (w * h) A) s t)))

/-- PSP.ADDR returns the offset of the byte in the swizzled buffer (42_block_tiled.md R190, R195).
In every state each command answers a next state. In order: UP 0x16, IG 0x01, 0x05, 0x0A when COORD_X >= Wb or COORD_Y
>= HEIGHT, 0x0B; else RESULT is the offset the formula of R190 gives. -/
def Obligations.PspAddrOfAByte : Prop :=
    decode 0x00000212 = .ok .pspAddr ∧
    ∀ s : State,
      let p := s.regs.params
      let w := p.width.toNat * p.bpp.toNat / 8
      let h := p.height.toNat
      let A := fun i j => (j / 8 * (w / 16) + i / 16) * 128 + j % 8 * 16 + i % 16
      ∃ t, exec .pspAddr s = .next t ∧
        (Checked s t (p.bpp.toNat ∉ [4, 8, 16, 32]) (.up 0x16) <| SizeChecked s t <|
          Checked s t (p.width.toNat * p.bpp.toNat % 8 ≠ 0 ∨ w % 16 ≠ 0 ∨ h % 8 ≠ 0) (.ig 0x05) <|
          AddrOutcome s t (p.coordX.toNat < w ∧ p.coordY.toNat < h) (A p.coordX.toNat p.coordY.toNat))

/-- PS2.8 SWZ/UNSWZ keep texel (x, y) at the byte the PSMT8 formula gives (44_ps2_gs.md R261, R264, R265).
In every state each command answers a next state. In order: UP 0x10 when PS2_SWIZZLE_TYPE is not 1, IG 0x01, IG 0x05
when WIDTH is no multiple of 16 or HEIGHT none of 4; then IG 0x10 when SRC_LEN is not the expected length, 0x11 when
DST_CAP is below the output length, 0x12 when a buffer passes 2^64, 0x13 when the ranges share a byte. Else the next
state has STATUS 1, OUT_LEN the output length, RESULT 0; byte k of every unit is moved between its linear place and
where the layout keeps it; every byte of a SWZ output that belongs to no unit is 0; every byte outside the output
range, every parameter register and the other instances are as before. The formula of R261 is stated with division and
remainder in place of its shifts and masks. -/
def Obligations.Ps28RemapsFollowTheGsFormula : Prop :=
    decode 0x00000020 = .ok .ps28Unswz ∧
    decode 0x00000120 = .ok .ps28Swz ∧
    ∀ s : State,
      let p := s.regs.params
      let w := p.width.toNat
      let h := p.height.toNat
      let A := fun x y => y / 16 * 16 * w + x / 16 * 32 + (2 * (y / 4 % 4) + y % 2) * (2 * w) +
        (x + 4 * ((y + 2) / 4 % 2)) % 8 * 4 + y / 2 % 2 + 2 * (x / 8 % 2)
      (∃ t, exec .ps28Unswz s = .next t ∧ (Checked s t (p.ps2SwizzleType ≠ 1) (.up 0x10) <| SizeChecked s t <|
          Checked s t (w % 16 ≠ 0 ∨ h % 4 ≠ 0) (.ig 0x05) <|
        BufferChecked s t (w * h) (w * h) (UnswzEffect (gridMap w h 1 (w * h) A) s t))) ∧
      (∃ t, exec .ps28Swz s = .next t ∧ (Checked s t (p.ps2SwizzleType ≠ 1) (.up 0x10) <| SizeChecked s t <|
          Checked s t (w % 16 ≠ 0 ∨ h % 4 ≠ 0) (.ig 0x05) <|
        BufferChecked s t (w * h) (w * h) (SwzEffect (gridMap w h 1 (w * h) A) s t)))

/-- PS2.8.ADDR returns the swizzled byte offset of the texel (44_ps2_gs.md R261, R266).
In every state each command answers a next state. In order: UP 0x10, IG 0x01, 0x05, 0x0A, 0x0B; else RESULT is the
offset the formula of R261 gives. -/
def Obligations.Ps28AddrOfATexel : Prop :=
    decode 0x00000220 = .ok .ps28Addr ∧
    ∀ s : State,
      let p := s.regs.params
      let w := p.width.toNat
      let h := p.height.toNat
      let A := fun x y => y / 16 * 16 * w + x / 16 * 32 + (2 * (y / 4 % 4) + y % 2) * (2 * w) +
        (x + 4 * ((y + 2) / 4 % 2)) % 8 * 4 + y / 2 % 2 + 2 * (x / 8 % 2)
      ∃ t, exec .ps28Addr s = .next t ∧
        (Checked s t (p.ps2SwizzleType ≠ 1) (.up 0x10) <| SizeChecked s t <|
          Checked s t (w % 16 ≠ 0 ∨ h % 4 ≠ 0) (.ig 0x05) <|
          AddrOutcome s t (p.coordX.toNat < w ∧ p.coordY.toNat < h) (A p.coordX.toNat p.coordY.toNat))

/-- PS2.4 SWZ/UNSWZ move 4-bit texels as the selected OPEN function says, or raise OOB 0x01 where it breaks its
requirement (44_ps2_gs.md R270, R271, R272, R273, R274, R275; 40_remap_contract.md R134).
In every state each command answers a next state. In order: UP 0x10 when PS2_SWIZZLE_TYPE is not 1, 2 or 3, IG 0x01,
IG 0x06 when W * H is odd or the variant does not admit the geometry; then IG 0x10 when SRC_LEN is not the expected
length, 0x11 when DST_CAP is below the output length, 0x12 when a buffer passes 2^64, 0x13 when the ranges share a
byte. then OOB 0x01 when the selected address function is no bijection at this geometry. Else STATUS is 1, OUT_LEN is
W * H / 2, RESULT 0; texel (x, y) is moved between linear texel y * W + x and swizzled texel a(x, y), low nibble
first; every byte outside the output range, every parameter register and the other instances are as before. -/
def Obligations.Ps24RemapsMoveTexels : Prop :=
    decode 0x00000021 = .ok .ps24Unswz ∧
    decode 0x00000121 = .ok .ps24Swz ∧
    ∀ s : State,
      let p := s.regs.params
      let w := p.width.toNat
      let h := p.height.toNat
      let N := w * h
      let sel := p.ps2SwizzleType.toNat
      let k : Ps24Variant := if sel = 1 then .standard else if sel = 2 then .type3 else .suba
      let a := fun x y => Config.ps24Addr k x y w h
      (∃ t, exec .ps24Unswz s = .next t ∧ (Checked s t (sel ≠ 1 ∧ sel ≠ 2 ∧ sel ≠ 3) (.up 0x10) <| SizeChecked s t <|
          Checked s t (N % 2 = 1 ∨ Config.ps24Ok k w h = false) (.ig 0x06) <|
        BufferChecked s t (N / 2) (N / 2) <| Checked s t (¬ Config.Ps24Bijective (Config.ps24Addr k) w h) (.oob 0x01) <|
          OutputFrame s t (N / 2) ∧ ∀ x y, x < w → y < h →
            nibbleAt t.mem p.dstBase (y * w + x) = nibbleAt s.mem p.srcBase (a x y))) ∧
      (∃ t, exec .ps24Swz s = .next t ∧ (Checked s t (sel ≠ 1 ∧ sel ≠ 2 ∧ sel ≠ 3) (.up 0x10) <| SizeChecked s t <|
          Checked s t (N % 2 = 1 ∨ Config.ps24Ok k w h = false) (.ig 0x06) <|
        BufferChecked s t (N / 2) (N / 2) <| Checked s t (¬ Config.Ps24Bijective (Config.ps24Addr k) w h) (.oob 0x01) <|
          OutputFrame s t (N / 2) ∧ ∀ x y, x < w → y < h →
            nibbleAt t.mem p.dstBase (a x y) = nibbleAt s.mem p.srcBase (y * w + x)))

/-- PS2.4.ADDR returns the nibble index the selected OPEN function gives, or raises IG 0x0B or OOB 0x01 (44_ps2_gs.md
R276; 40_remap_contract.md R125, R126; 60_exceptions.md R372, R374).
In every state each command answers a next state. In order: UP 0x10, IG 0x01, IG 0x06, IG 0x0A when the coordinates
are outside the image, IG 0x0B when the index is 2^64 or more, OOB 0x01 when it is W * H or more; else RESULT is the
nibble index. That IG 0x0B, which R276 does not repeat, comes between is read from R125, R372 and R374 (log entry 9).
-/
def Obligations.Ps24AddrIsANibbleIndex : Prop :=
    decode 0x00000221 = .ok .ps24Addr ∧
    ∀ s : State,
      let p := s.regs.params
      let w := p.width.toNat
      let h := p.height.toNat
      let N := w * h
      let sel := p.ps2SwizzleType.toNat
      let k : Ps24Variant := if sel = 1 then .standard else if sel = 2 then .type3 else .suba
      let a := fun x y => Config.ps24Addr k x y w h
      ∃ t, exec .ps24Addr s = .next t ∧ (Checked s t (sel ≠ 1 ∧ sel ≠ 2 ∧ sel ≠ 3) (.up 0x10) <| SizeChecked s t <|
          Checked s t (N % 2 = 1 ∨ Config.ps24Ok k w h = false) (.ig 0x06) <|
        Checked s t (¬ (p.coordX.toNat < w ∧ p.coordY.toNat < h)) (.ig 0x0A) <|
          Checked s t (2 ^ 64 ≤ a p.coordX.toNat p.coordY.toNat) (.ig 0x0B) <|
          Checked s t (N ≤ a p.coordX.toNat p.coordY.toNat) (.oob 0x01) <|
            ValueEffect s t (a p.coordX.toNat p.coordY.toNat))

/-- PS2.PAL SWZ/UNSWZ move entry i to the index with bits 3 and 4 exchanged (44_ps2_gs.md R280, R282, R283).
In every state each command answers a next state. In order: UP 0x11 when PAL_ENTRY_BYTES is not 2 or 4, IG 0x07 when
SRC_LEN is no positive multiple of 32 entries, then IG 0x11, 0x12, 0x13 (IG 0x10 cannot occur: the expected length is
SRC_LEN itself). Else the next state has STATUS 1, OUT_LEN the output length, RESULT 0; byte k of every unit is moved
between its linear place and where the layout keeps it; every byte of a SWZ output that belongs to no unit is 0; every
byte outside the output range, every parameter register and the other instances are as before. Entry i is at PERM(i) *
E, PERM exchanging bits 3 and 4. -/
def Obligations.PaletteRemapsExchangeBits3And4 : Prop :=
    decode 0x00000022 = .ok .ps2PalUnswz ∧
    decode 0x00000122 = .ok .ps2PalSwz ∧
    ∀ s : State,
      let p := s.regs.params
      let E := p.palEntryBytes.toNat
      let N := p.srcLen / E
      let perm := fun i => i / 32 * 32 + i / 8 % 2 * 16 + i / 16 % 2 * 8 + i % 8
      let m : UnitMap Nat := ⟨fun i => i < N, fun i => i, fun i k => perm i * E + k, E, p.srcLen, p.srcLen⟩
      (∃ t, exec .ps2PalUnswz s = .next t ∧ (Checked s t (E ≠ 2 ∧ E ≠ 4) (.up 0x11) <|
        Checked s t (p.srcLen % E ≠ 0 ∨ N = 0 ∨ N % 32 ≠ 0) (.ig 0x07) <|
        BufferChecked s t p.srcLen p.srcLen (UnswzEffect m s t))) ∧
      (∃ t, exec .ps2PalSwz s = .next t ∧ (Checked s t (E ≠ 2 ∧ E ≠ 4) (.up 0x11) <|
        Checked s t (p.srcLen % E ≠ 0 ∨ N = 0 ∨ N % 32 ≠ 0) (.ig 0x07) <|
        BufferChecked s t p.srcLen p.srcLen (SwzEffect m s t)))

/-- PS2.PAL.ADDR returns PERM(COORD_X) * E for every COORD_X (44_ps2_gs.md R284).
In every state each command answers a next state. UP 0x11 when PAL_ENTRY_BYTES is not 2 or 4, else IG 0x0A when
COORD_Y is not 0, else RESULT = PERM(COORD_X) * E. -/
def Obligations.PaletteAddrOfAnEntry : Prop :=
    decode 0x00000222 = .ok .ps2PalAddr ∧
    ∀ s : State,
      let p := s.regs.params
      let E := p.palEntryBytes.toNat
      let perm := fun i => i / 32 * 32 + i / 8 % 2 * 16 + i / 16 % 2 * 8 + i % 8
      ∃ t, exec .ps2PalAddr s = .next t ∧ (Checked s t (E ≠ 2 ∧ E ≠ 4) (.up 0x11) <|
        Checked s t (p.coordY ≠ 0) (.ig 0x0A) <| ValueEffect s t (perm p.coordX.toNat * E))

/-- NSW SWZ/UNSWZ keep unit (x, y) at the byte the GOB formula gives, padding with zeros and cropping (45_switch.md
R301, R306, R307; 40_remap_contract.md R127).
In every state each command answers a next state. In order: UP 0x14, UP 0x15, IG 0x01, IG 0x02, IG 0x03; then IG 0x10
when SRC_LEN is not the expected length, 0x11 when DST_CAP is below the output length, 0x12 when a buffer passes 2^64,
0x13 when the ranges share a byte. Else the next state has STATUS 1, OUT_LEN the output length, RESULT 0; byte k of
every unit is moved between its linear place and where the layout keeps it; every byte of a SWZ output that belongs to
no unit is 0; every byte outside the output range, every parameter register and the other instances are as before. The
GOB and sub-GOB formula of R301 is stated with single bits of the byte column and row. -/
def Obligations.NswRemapsBlockLinear : Prop :=
    decode 0x00000030 = .ok .nswUnswz ∧
    decode 0x00000130 = .ok .nswSwz ∧
    ∀ s : State,
      let p := s.regs.params
      let w := p.unitsW
      let h := p.unitsH
      let B := p.unitBytes
      let bh := p.gobBlockH.toNat
      let wp := (w + p.widthPad.toNat - 1) / p.widthPad.toNat * p.widthPad.toNat
      let hp := (h + p.heightPad.toNat - 1) / p.heightPad.toNat * p.heightPad.toNat
      let G := (wp * B + 63) / 64
      let A := fun x y => y / (8 * bh) * (512 * bh * G) + x * B / 64 * (512 * bh) + y % (8 * bh) / 8 * 512 +
        x * B / 32 % 2 * 256 + y / 2 % 4 * 64 + x * B / 16 % 2 * 32 + y % 2 * 16 + x * B % 16
      let L := G * ((hp + 8 * bh - 1) / (8 * bh)) * 512 * bh
      (∃ t, exec .nswUnswz s = .next t ∧ (Checked s t (B ∉ [1, 2, 4, 8, 16]) (.up 0x14) <|
        Checked s t (bh ∉ [1, 2, 4, 8, 16, 32]) (.up 0x15) <| SizeChecked s t <| BlockChecked s t <|
        Checked s t (p.widthPad = 0 ∨ p.heightPad = 0) (.ig 0x03) <|
        BufferChecked s t L (w * h * B) (UnswzEffect (gridMap w h B L A) s t))) ∧
      (∃ t, exec .nswSwz s = .next t ∧ (Checked s t (B ∉ [1, 2, 4, 8, 16]) (.up 0x14) <|
        Checked s t (bh ∉ [1, 2, 4, 8, 16, 32]) (.up 0x15) <| SizeChecked s t <| BlockChecked s t <|
        Checked s t (p.widthPad = 0 ∨ p.heightPad = 0) (.ig 0x03) <|
        BufferChecked s t (w * h * B) L (SwzEffect (gridMap w h B L A) s t)))

/-- NSW.ADDR returns the offset of the unit in the block-linear buffer (45_switch.md R301, R308).
In every state each command answers a next state. In order: UP 0x14, 0x15, IG 0x01, 0x02, 0x03, 0x0A, 0x0B; else
RESULT is the offset the formula of R301 gives. -/
def Obligations.NswAddrOfAUnit : Prop :=
    decode 0x00000230 = .ok .nswAddr ∧
    ∀ s : State,
      let p := s.regs.params
      let w := p.unitsW
      let h := p.unitsH
      let B := p.unitBytes
      let bh := p.gobBlockH.toNat
      let wp := (w + p.widthPad.toNat - 1) / p.widthPad.toNat * p.widthPad.toNat
      let G := (wp * B + 63) / 64
      let A := fun x y => y / (8 * bh) * (512 * bh * G) + x * B / 64 * (512 * bh) + y % (8 * bh) / 8 * 512 +
        x * B / 32 % 2 * 256 + y / 2 % 4 * 64 + x * B / 16 % 2 * 32 + y % 2 * 16 + x * B % 16
      ∃ t, exec .nswAddr s = .next t ∧
        (Checked s t (B ∉ [1, 2, 4, 8, 16]) (.up 0x14) <|
        Checked s t (bh ∉ [1, 2, 4, 8, 16, 32]) (.up 0x15) <| SizeChecked s t <| BlockChecked s t <|
        Checked s t (p.widthPad = 0 ∨ p.heightPad = 0) (.ig 0x03) <|
          AddrOutcome s t (p.coordX.toNat < w ∧ p.coordY.toNat < h) (A p.coordX.toNat p.coordY.toNat))

/-- WIIU SWZ/UNSWZ move every element of every slice and sample, or raise IG 0x09 when a unit lies outside or two
overlap (46_wiiu.md R321, R322, R324, R325, R334, R336, R338, R339).
In every state each command answers a next state. In order: UP 0x20, 0x21, 0x22, 0x24, IG 0x01, 0x05, 0x08, then IG
0x09 when some unit ends past WIIU_SURF_SIZE or two units overlap; then IG 0x10 when SRC_LEN is not the expected
length, 0x11 when DST_CAP is below the output length, 0x12 when a buffer passes 2^64, 0x13 when the ranges share a
byte. Else the next state has STATUS 1, OUT_LEN the output length, RESULT 0; byte k of every unit is moved between its
linear place and where the layout keeps it; every byte of a SWZ output that belongs to no unit is 0; every byte
outside the output range, every parameter register and the other instances are as before. The domain is every (x, y,
slice, sample), sample 0's slices first; the address of a unit is A(x, y, z, s) of R333. Holds for every value of the
OPEN format table. -/
def Obligations.WiiuRemapsWholeSurfaces : Prop :=
    decode 0x00000040 = .ok .wiiuUnswz ∧
    decode 0x00000140 = .ok .wiiuSwz ∧
    ∀ s : State,
      let p := s.regs.params
      let f : WiiuFormat := ⟨Config.wiiuFmtBpp (p.wiiuFormat.toNat % 64), Config.wiiuFmtIsBc (p.wiiuFormat.toNat % 64)⟩
      let g := wiiuSurface f p
      let w := if f.isBc then (p.width.toNat + 3) / 4 else p.width.toNat
      let h := if f.isBc then (p.height.toNat + 3) / 4 else p.height.toNat
      let ns := 2 ^ p.wiiuAa.toNat
      let NS := p.wiiuNumSlices.toNat
      let tm := p.wiiuTileMode.toNat
      let B := f.bpp / 8
      let L := p.surfSize
      let lin := ns * NS * h * w * B
      let A := fun u : Nat × Nat × Nat × Nat => g.addr u.1 u.2.1 u.2.2.1 u.2.2.2
      let m : UnitMap (Nat × Nat × Nat × Nat) :=
        ⟨fun u => u.1 < w ∧ u.2.1 < h ∧ u.2.2.1 < NS ∧ u.2.2.2 < ns,
         fun u => ((u.2.2.2 * NS + u.2.2.1) * h + u.2.1) * w + u.1, fun u k => A u + k, B, lin, L⟩
      let fits := (∀ u, m.inDomain u → A u + B ≤ L) ∧
        ∀ u v, m.inDomain u → m.inDomain v → u ≠ v → A u + B ≤ A v ∨ A v + B ≤ A u
      (∃ t, exec .wiiuUnswz s = .next t ∧ (Checked s t (16 < tm) (.up 0x20) <|
        Checked s t (f.bpp ∉ [8, 16, 32, 64, 128]) (.up 0x21) <| Checked s t (3 < p.wiiuAa.toNat) (.up 0x22) <|
        Checked s t (p.wiiuAa ≠ 0 ∧ tm ∉ [0, 1, 4, 5, 6, 8, 9, 10, 12, 14]) (.up 0x24) <| SizeChecked s t <|
        Checked s t (p.wiiuPitch.toNat % g.mode.pitchAlign ≠ 0 ∨ p.wiiuSurfHeight.toNat % g.mode.heightAlign ≠ 0)
          (.ig 0x05) <|
        Checked s t (p.wiiuPitch.toNat < w ∨ p.wiiuSurfHeight.toNat < h ∨ NS = 0) (.ig 0x08) <|
        Checked s t (¬ fits) (.ig 0x09) <| BufferChecked s t L lin (UnswzEffect m s t))) ∧
      (∃ t, exec .wiiuSwz s = .next t ∧ (Checked s t (16 < tm) (.up 0x20) <|
        Checked s t (f.bpp ∉ [8, 16, 32, 64, 128]) (.up 0x21) <| Checked s t (3 < p.wiiuAa.toNat) (.up 0x22) <|
        Checked s t (p.wiiuAa ≠ 0 ∧ tm ∉ [0, 1, 4, 5, 6, 8, 9, 10, 12, 14]) (.up 0x24) <| SizeChecked s t <|
        Checked s t (p.wiiuPitch.toNat % g.mode.pitchAlign ≠ 0 ∨ p.wiiuSurfHeight.toNat % g.mode.heightAlign ≠ 0)
          (.ig 0x05) <|
        Checked s t (p.wiiuPitch.toNat < w ∨ p.wiiuSurfHeight.toNat < h ∨ NS = 0) (.ig 0x08) <|
        Checked s t (¬ fits) (.ig 0x09) <| BufferChecked s t lin L (SwzEffect m s t)))

/-- WIIU.ADDR returns A(x, y, slice, sample) and does not read WIIU_SURF_SIZE (46_wiiu.md R333, R340).
In every state each command answers a next state. In order: UP 0x20, 0x21, 0x22, 0x24, IG 0x01, 0x05, 0x08, 0x0A when
a coordinate, the slice or the sample is outside, 0x0B; else RESULT is A(COORD_X, COORD_Y, WIIU_SLICE, WIIU_SAMPLE) of
R333. -/
def Obligations.WiiuAddrOfAnElement : Prop :=
    decode 0x00000240 = .ok .wiiuAddr ∧
    ∀ s : State,
      let p := s.regs.params
      let f : WiiuFormat := ⟨Config.wiiuFmtBpp (p.wiiuFormat.toNat % 64), Config.wiiuFmtIsBc (p.wiiuFormat.toNat % 64)⟩
      let g := wiiuSurface f p
      let w := if f.isBc then (p.width.toNat + 3) / 4 else p.width.toNat
      let h := if f.isBc then (p.height.toNat + 3) / 4 else p.height.toNat
      let ns := 2 ^ p.wiiuAa.toNat
      let NS := p.wiiuNumSlices.toNat
      let tm := p.wiiuTileMode.toNat
      ∃ t, exec .wiiuAddr s = .next t ∧ (Checked s t (16 < tm) (.up 0x20) <|
        Checked s t (f.bpp ∉ [8, 16, 32, 64, 128]) (.up 0x21) <| Checked s t (3 < p.wiiuAa.toNat) (.up 0x22) <|
        Checked s t (p.wiiuAa ≠ 0 ∧ tm ∉ [0, 1, 4, 5, 6, 8, 9, 10, 12, 14]) (.up 0x24) <| SizeChecked s t <|
        Checked s t (p.wiiuPitch.toNat % g.mode.pitchAlign ≠ 0 ∨ p.wiiuSurfHeight.toNat % g.mode.heightAlign ≠ 0)
          (.ig 0x05) <|
        Checked s t (p.wiiuPitch.toNat < w ∨ p.wiiuSurfHeight.toNat < h ∨ NS = 0) (.ig 0x08) <|
        AddrOutcome s t (p.coordX.toNat < w ∧ p.coordY.toNat < h ∧ p.wiiuSlice.toNat < NS ∧ p.wiiuSample.toNat < ns)
          (g.addr p.coordX.toNat p.coordY.toNat p.wiiuSlice.toNat p.wiiuSample.toNat))

/-- XGOFF is a bijection onto 0..w*h-1 under the alignments of R223, with XGX and XGY its inverse (43_morton_family.md
R221, R223).
For B in {1, 2, 4, 8, 16}, w a multiple of 32, h a multiple of HA(B), x < w and y < h: XGOFF(x, y, w, B) is below w *
h, and XGX and XGY of it give back x and y. -/
def Obligations.XgOffIsABijection : Prop :=
    ∀ B w h x y : Nat, B ∈ [1, 2, 4, 8, 16] → w % 32 = 0 →
    h % (if B = 1 then 128 else if B = 2 then 64 else 32) = 0 → x < w → y < h →
    xgOff x y w B < w * h ∧ xgX (xgOff x y w B) w B = x ∧ xgY (xgOff x y w B) w B = y

/-- The tiled-Morton layout is a bijection onto 0..w*h-1 for every image size (43_morton_family.md R231, R232).
For super-tiles of 2^p by 2^q units and every image of w by h units: the offset of every unit in units is below w * h,
distinct units get distinct offsets, and the offset in bytes is B times the offset in units. -/
def Obligations.TiledMortonIsABijection : Prop :=
    ∀ p q w h : Nat,
    (∀ x y B, tmAddr (2 ^ p) (2 ^ q) w h B x y = tmAddr (2 ^ p) (2 ^ q) w h 1 x y * B) ∧
    (∀ x y, x < w → y < h → tmAddr (2 ^ p) (2 ^ q) w h 1 x y < w * h) ∧
    (∀ x y x' y', x < w → y < h → x' < w → y' < h →
      tmAddr (2 ^ p) (2 ^ q) w h 1 x y = tmAddr (2 ^ p) (2 ^ q) w h 1 x' y' → x = x' ∧ y = y')

/-- The PS2 8-bit layout is a bijection onto 0..W*H-1 when W is a multiple of 16 and H of 4 (44_ps2_gs.md R261, R262).
For W a multiple of 16 and H a multiple of 4: A(x, y) is below W * H for every texel, and distinct texels get distinct
bytes. -/
def Obligations.Ps28OffsetIsABijection : Prop :=
    ∀ W H : Nat, W % 16 = 0 → H % 4 = 0 →
    (∀ x y, x < W → y < H → ps28Offset W x y < W * H) ∧
    (∀ x y x' y', x < W → y < H → x' < W → y' < H → ps28Offset W x y = ps28Offset W x' y' → x = x' ∧ y = y')

/-- PERM is an involution, and PS2.PAL.SWZ and PS2.PAL.UNSWZ are the same function (44_ps2_gs.md R281).
PERM(PERM(i)) = i for every i, PERM keeps every group of 32, and in every state PS2.PAL.SWZ and PS2.PAL.UNSWZ end in
the same state. -/
def Obligations.PaletteSwzAndUnswzAgree : Prop :=
    (∀ i, palPerm (palPerm i) = i ∧ palPerm i / 32 = i / 32) ∧
    ∀ s : State, exec .ps2PalSwz s = exec .ps2PalUnswz s

/-- The Switch layout keeps every unit inside Lswz, aligned to its size, and no two units overlap (45_switch.md R302).
For parameter registers that pass the checks of R301: every unit of the image has an offset that is a multiple of B,
ends inside the swizzled buffer, and overlaps no other unit. -/
def Obligations.NswUnitsArePlacedApart : Prop :=
    ∀ p : Params, firstError (nswChecks p) = none →
    (nswLayout p).Placed ∧ (nswLayout p).Apart ∧ ∀ x y, nswAddr p x y % p.unitBytes = 0

/-- For a layout that is placed and disjoint, UNSWZ undoes SWZ, and SWZ after UNSWZ zeroes the padding only
(40_remap_contract.md R132, R133).
For every layout with placement and disjointness: unswizzling the swizzled form of any buffer of Llin bytes gives the
buffer; swizzling the unswizzled form of any buffer of Lswz bytes gives, at each position, that buffer's byte where a
unit covers the position and 0 elsewhere, so it is that buffer when the layout is dense. -/
def Obligations.RoundTripOfEveryPlacedLayout : Prop :=
    ∀ lay : Layout, lay.Placed → lay.Apart →
    (∀ l : List Byte, l.length = lay.linLen → unswizzle 0 lay (swizzle 0 lay l) = l) ∧
    (∀ z : List Byte, z.length = lay.swzLen →
      (swizzle 0 lay (unswizzle 0 lay z)).length = lay.swzLen ∧
      (∀ j, j < lay.swzLen → lay.Covers j → (swizzle 0 lay (unswizzle 0 lay z)).getD j 0 = z.getD j 0) ∧
      (∀ j, j < lay.swzLen → ¬ lay.Covers j → (swizzle 0 lay (unswizzle 0 lay z)).getD j 0 = 0) ∧
      ((∀ j, j < lay.swzLen → lay.Covers j) → swizzle 0 lay (unswizzle 0 lay z) = z))

/-- A SWZ command and then the UNSWZ command on its output give back the source bytes, for nine families
(40_remap_contract.md R132; 45_switch.md R303; 44_ps2_gs.md R263).
For MORTON, MORTONR, PS4, BLK, 3DS, PSP, PS2.8, PS2.PAL and NSW: if the SWZ command succeeds, and the host then points
the source registers at its output and the destination registers anywhere, and the UNSWZ command succeeds, then
OUT_LEN is the first SRC_LEN and the bytes at the second destination are the source bytes as they stood before the
first command. -/
def Obligations.RoundTripThroughMemory : Prop :=
    ∀ (sw un : Instr),
    (sw, un) ∈ [(.mortonSwz, .mortonUnswz), (.mortonRSwz, .mortonRUnswz), (.ps4Swz, .ps4Unswz),
      (.blkSwz, .blkUnswz), (.n3dsSwz, .n3dsUnswz), (.pspSwz, .pspUnswz),
      (.ps28Swz, .ps28Unswz), (.ps2PalSwz, .ps2PalUnswz), (.nswSwz, .nswUnswz)] →
    ∀ (s t u : State) (base cap : Address),
      exec sw s = .next t → t.regs.results.status = 1 →
      exec un (t.redirected (BitVec.ofNat 64 s.regs.params.dstBase)
        (t.regs.results.outLenHi ++ t.regs.results.outLenLo) base cap) = .next u →
      u.regs.results.status = 1 →
      pair u.regs.results.outLenHi u.regs.results.outLenLo = s.regs.params.srcLen ∧
      ∀ k, k < s.regs.params.srcLen → u.mem.read (base.toNat + k) = s.mem.read (s.regs.params.srcBase + k)

/-- X360.SWZ and then X360.UNSWZ on its output give back the source bytes, for every swap unit (43_morton_family.md
R222, R223, R224, R225; 40_remap_contract.md R132).
As for the nine families, for X360: tiling and byte swap cancel, at every admitted geometry, unit size and SWAP_UNIT.
-/
def Obligations.X360RoundTripThroughMemory : Prop :=
    ∀ (s t u : State) (base cap : Address),
      exec .x360Swz s = .next t → t.regs.results.status = 1 →
      exec .x360Unswz (t.redirected (BitVec.ofNat 64 s.regs.params.dstBase)
        (t.regs.results.outLenHi ++ t.regs.results.outLenLo) base cap) = .next u →
      u.regs.results.status = 1 →
      pair u.regs.results.outLenHi u.regs.results.outLenLo = s.regs.params.srcLen ∧
      ∀ k, k < s.regs.params.srcLen → u.mem.read (base.toNat + k) = s.mem.read (s.regs.params.srcBase + k)

/-- PS5, PS2.4 and WIIU: SWZ and then UNSWZ give back the source bytes, for every value of the OPEN parameters
(43_morton_family.md R238; 44_ps2_gs.md R272, R273; 46_wiiu.md R336; 40_remap_contract.md R132, R134).
The meanings of the PS5, PS2.4 and WIIU remaps are the functions ps5Swz, ps24Swz, wiiuSwz (and their UNSWZ forms) at
the values of the OPEN parameters; and for every value of those parameters, lawful or not, a SWZ that succeeds
followed by an UNSWZ on its output that succeeds gives back the source bytes. -/
def Obligations.OpenFamiliesRoundTripThroughMemory : Prop :=
    (∀ s : State, exec .ps5Swz s = .next (s.complete (ps5Swz (Config.ps5Tile s.regs.params.unitBytes) s)) ∧
      exec .ps5Unswz s = .next (s.complete (ps5Unswz (Config.ps5Tile s.regs.params.unitBytes) s)) ∧
      exec .ps24Swz s = .next (s.complete (ps24Swz (ps24Open s.regs.params.ps2SwizzleType.toNat) s)) ∧
      exec .ps24Unswz s = .next (s.complete (ps24Unswz (ps24Open s.regs.params.ps2SwizzleType.toNat) s)) ∧
      exec .wiiuSwz s = .next (s.complete (wiiuSwz (wiiuOpenFormat s.regs.params.hwFmt) s)) ∧
      exec .wiiuUnswz s = .next (s.complete (wiiuUnswz (wiiuOpenFormat s.regs.params.hwFmt) s))) ∧
    (∀ (o : Option Ps5Tile) (s t t' u : State) (base cap : Address),
      s.complete (ps5Swz o s) = t → t.regs.results.status = 1 →
      (t.redirected (BitVec.ofNat 64 s.regs.params.dstBase)
        (t.regs.results.outLenHi ++ t.regs.results.outLenLo) base cap) = t' → t'.complete (ps5Unswz o t') = u →
      u.regs.results.status = 1 →
      pair u.regs.results.outLenHi u.regs.results.outLenLo = s.regs.params.srcLen ∧
      ∀ k, k < s.regs.params.srcLen → u.mem.read (base.toNat + k) = s.mem.read (s.regs.params.srcBase + k)) ∧
    (∀ (o : Ps24Functions) (s t t' u : State) (base cap : Address),
      s.complete (ps24Swz o s) = t → t.regs.results.status = 1 →
      (t.redirected (BitVec.ofNat 64 s.regs.params.dstBase)
        (t.regs.results.outLenHi ++ t.regs.results.outLenLo) base cap) = t' → t'.complete (ps24Unswz o t') = u →
      u.regs.results.status = 1 →
      pair u.regs.results.outLenHi u.regs.results.outLenLo = s.regs.params.srcLen ∧
      ∀ k, k < s.regs.params.srcLen → u.mem.read (base.toNat + k) = s.mem.read (s.regs.params.srcBase + k)) ∧
    (∀ (o : WiiuFormat) (s t t' u : State) (base cap : Address),
      s.complete (wiiuSwz o s) = t → t.regs.results.status = 1 →
      (t.redirected (BitVec.ofNat 64 s.regs.params.dstBase)
        (t.regs.results.outLenHi ++ t.regs.results.outLenLo) base cap) = t' → t'.complete (wiiuUnswz o t') = u →
      u.regs.results.status = 1 →
      pair u.regs.results.outLenHi u.regs.results.outLenLo = s.regs.params.srcLen ∧
      ∀ k, k < s.regs.params.srcLen → u.mem.read (base.toNat + k) = s.mem.read (s.regs.params.srcBase + k))

/-- In tile modes 0 and 1, at slice 0 and sample 0, WIIU.ADDR is (y * pitch + x) * bpp / 8 whatever WIIU_SWIZZLE is
(46_wiiu.md R327, R335).
WIIU.ADDR is the function wiiuAddr at the OPEN format table's values; and for every value of the format row: with
WIIU_TILE_MODE 0 or 1, WIIU_SLICE 0 and WIIU_SAMPLE 0, if the command ends with a value, the value is (COORD_Y *
WIIU_PITCH + COORD_X) * bpp / 8, and it ends so for every other WIIU_SWIZZLE too. -/
def Obligations.WiiuLinearModesIgnoreTheSeeds : Prop :=
    (∀ s : State, exec .wiiuAddr s = .next (s.complete (wiiuAddr (wiiuOpenFormat s.regs.params.hwFmt) s.regs.params))) ∧
    ∀ (f : WiiuFormat) (p : Params) (v : Nat) (seeds : Word), p.wiiuTileMode.toNat ≤ 1 → p.wiiuSlice = 0 →
      p.wiiuSample = 0 → wiiuAddr f p = .value v →
      v = (p.coordY.toNat * p.wiiuPitch.toNat + p.coordX.toNat) * f.bpp / 8 ∧
      wiiuAddr f { p with wiiuSwizzle := seeds } = .value v

/-- The X360 byte swap keeps the length, is its own inverse, and moves byte j to the place its group says
(43_morton_family.md R222).
For every SWAP_UNIT and buffer: swapping twice gives the buffer back and the length is kept; for a buffer of a
multiple of 4 bytes, the byte at position j is afterwards at j XOR 1 (SWAP_UNIT 0), j (1) or j XOR 3 (2). -/
def Obligations.ByteSwapIsAnInvolution : Prop :=
    ∀ (unit : Nat) (buf : List Byte),
    swapBytes unit (swapBytes unit buf) = buf ∧ (swapBytes unit buf).length = buf.length ∧
    (unit ≤ 2 → buf.length % 4 = 0 → ∀ j, j < buf.length →
      (swapBytes unit buf).getD (swapPlace unit j) 0 = buf.getD j 0)

/-- No command ends in OOB 0x01, but for a PS2.4 command whose OPEN address function breaks R272 (40_remap_contract.md
R134; 44_ps2_gs.md R272, R276; 60_exceptions.md R372).
A command other than the three PS2.4 ones never leaves STATUS 0x00000133, in any state. For every pair of OPEN
functions that is a bijection onto 0..W*H-1 at each geometry it admits (property 1 of R272), PS2.4.UNSWZ, PS2.4.SWZ
and PS2.4.ADDR with these functions never end in OOB 0x01. -/
def Obligations.OutOfBoundsNeedsAFaultyFunction : Prop :=
    (∀ (i : Instr) (s : State), i ∉ [.ps24Unswz, .ps24Swz, .ps24Addr] →
      ∃ t, exec i s = .next t ∧ t.regs.results.status ≠ 0x00000133) ∧
    ∀ f : Ps24Functions, (∀ W H, f.ok W H = true → Config.Ps24Bijective f.addr W H) →
      ∀ s : State, ps24Unswz f s ≠ .error (.oob 0x01) ∧ ps24Swz f s ≠ .error (.oob 0x01) ∧
        ps24Addr f s.regs.params ≠ .error (.oob 0x01)

/-- Each of the 41 commands right after reset ends in the first error of its check order (70_reset_and_hazards.md
R402).
In State.reset: every MORTON, MORTONR, PS4, BLK and 3DS command ends in IG 0x01; PS2.8 and PS2.4 in UP 0x10; PS2.PAL
in UP 0x11; X360 in UP 0x13 (SWAP_UNIT 0 is legal); NSW in UP 0x14; PSP in UP 0x16; PS5 in UP 0x23 when PS5_TILE(0) is
undefined, else in IG 0x01; WIIU in UP 0x21 when WIIU_FMT_BPP(0) is no legal bpp, else in IG 0x01. Each leaves the
error in STATUS and 0 in OUT_LEN and RESULT, and changes nothing else. -/
def Obligations.CommandsRightAfterReset : Prop :=
    (∀ i ∈ [Instr.mortonUnswz, .mortonSwz, .mortonAddr, .mortonIdx, .mortonRUnswz, .mortonRSwz,
        .mortonRAddr, .mortonRIdx, .ps4Unswz, .ps4Swz, .ps4Addr, .blkUnswz, .blkSwz, .blkAddr,
        .n3dsUnswz, .n3dsSwz, .n3dsAddr],
      ∃ t, exec i State.reset = .next t ∧ ErrorEffect State.reset t (.ig 0x01)) ∧
    (∀ i ∈ [Instr.ps28Unswz, .ps28Swz, .ps28Addr, .ps24Unswz, .ps24Swz, .ps24Addr],
      ∃ t, exec i State.reset = .next t ∧ ErrorEffect State.reset t (.up 0x10)) ∧
    (∀ i ∈ [Instr.ps2PalUnswz, .ps2PalSwz, .ps2PalAddr],
      ∃ t, exec i State.reset = .next t ∧ ErrorEffect State.reset t (.up 0x11)) ∧
    (∀ i ∈ [Instr.x360Unswz, .x360Swz, .x360Addr],
      ∃ t, exec i State.reset = .next t ∧ ErrorEffect State.reset t (.up 0x13)) ∧
    (∀ i ∈ [Instr.nswUnswz, .nswSwz, .nswAddr],
      ∃ t, exec i State.reset = .next t ∧ ErrorEffect State.reset t (.up 0x14)) ∧
    (∀ i ∈ [Instr.pspUnswz, .pspSwz, .pspAddr],
      ∃ t, exec i State.reset = .next t ∧ ErrorEffect State.reset t (.up 0x16)) ∧
    (∀ i ∈ [Instr.ps5Unswz, .ps5Swz, .ps5Addr],
      ∃ t, exec i State.reset = .next t ∧ ErrorEffect State.reset t
        (if Config.ps5Tile 0 = none then .up 0x23 else .ig 0x01)) ∧
    (∀ i ∈ [Instr.wiiuUnswz, .wiiuSwz, .wiiuAddr],
      ∃ t, exec i State.reset = .next t ∧ ErrorEffect State.reset t
        (if Config.wiiuFmtBpp 0 ∈ [8, 16, 32, 64, 128] then .ig 0x01 else .up 0x21))

/-- A register read, a register write, a command or a reset of instance k acts on instance k; where there is no
instance k it faults (10_state.md R20; 20_memory.md R61; 60_exceptions.md R390; 70_reset_and_hazards.md R401).
For every state whose addressed instance exists. If instance k has register file f: a read of instance k at an aligned
offset below 256 answers what that offset of f holds; a write elsewhere than at CMD gives instance k the register file
f with that write done; a reset of instance k gives it the reset register file; no other register file and no memory
changes. In general, there is a state that differs only in addressing instance k and holding f as its addressed
register file, in which each such access, of any width and at any offset, a CMD write among them, is the access to the
addressed instance that the other statements describe. If there is no instance k, a 4-byte read, a 4-byte write and a
reset fault (noSuchInstance). The faults are the model's reading (log entry 10), and how the register files are held
is its choice (log entry 11). -/
def Obligations.AccessesReachTheInstanceTheyName : Prop :=
    ∀ (s : State) (k : Nat), s.selected ≤ s.others.length →
    (∀ f : RegFile, s.instances[k]? = some f →
      (∀ offset, offset % 4 = 0 → offset < 256 → ∃ t, hostAccess (.regRead 4 (.reg k offset)) s = .next t ∧
        t.answer = .word (f.readOffset offset) ∧ t.instances = s.instances ∧ t.mem = s.mem) ∧
      (∀ (offset : Nat) (v : Word), offset % 4 = 0 → offset < 256 → offset ≠ 0 →
        ∃ t, hostAccess (.regWrite 4 (.reg k offset) v) s = .next t ∧
          t.instances = s.instances.set k (f.writeOffset offset v) ∧ t.mem = s.mem) ∧
      (∃ t, hostAccess (.resetInstance k) s = .next t ∧ t.instances = s.instances.set k RegFile.reset ∧
        t.mem = s.mem) ∧
      ∃ s' : State, s'.selected = k ∧ s'.regs = f ∧ s'.instances = s.instances ∧ s'.mem = s.mem ∧
        s'.pending = s.pending ∧ s'.answer = s.answer ∧
        (∀ bytes offset : Nat,
          hostAccess (.regRead bytes (.reg k offset)) s = hostAccess (.regRead bytes (.reg s'.selected offset)) s') ∧
        (∀ (bytes offset : Nat) (v : Word), hostAccess (.regWrite bytes (.reg k offset) v) s =
          hostAccess (.regWrite bytes (.reg s'.selected offset) v) s') ∧
        hostAccess (.resetInstance k) s = hostAccess (.resetInstance s'.selected) s') ∧
    (s.instances[k]? = none →
      (∀ (offset : Nat) (v : Word), hostAccess (.regRead 4 (.reg k offset)) s = .fault .noSuchInstance ∧
        hostAccess (.regWrite 4 (.reg k offset) v) s = .fault .noSuchInstance) ∧
      hostAccess (.resetInstance k) s = .fault .noSuchInstance)

/-- A register access at a bus address reaches the instance whose 256 bytes from TSE_BASE hold it, and faults where
none does (10_state.md R20, R35; 20_memory.md R61, R79; 60_exceptions.md R390).
For every state whose instances have register spaces that do not overlap (for a state of N_INSTANCES instances this is
Config.BasesApart, the platform's requirement of D3), every instance k and every offset below 256: a read and a write,
of any width, at the bus address TSE_BASE(k) + offset are the read and the write at that offset of instance k. In
every state, a 4-byte read and write at an address in no instance's register space fault (noSuchInstance). TSE_BASE is
OPEN, and alignment is judged by the offset (log entry 4); the fault is the model's reading (log entry 10). -/
def Obligations.BusAddressesReachTheInstanceThatHoldsThem : Prop :=
    ∀ s : State,
    (Config.BasesApartBelow s.instanceCount → ∀ k offset bytes : Nat, ∀ v : Word, k < s.instanceCount → offset < 256 →
      hostAccess (.regRead bytes (.bus (Config.tseBase k + offset))) s = hostAccess (.regRead bytes (.reg k offset)) s ∧
      hostAccess (.regWrite bytes (.bus (Config.tseBase k + offset)) v) s =
        hostAccess (.regWrite bytes (.reg k offset) v) s) ∧
    (∀ (a : Nat) (v : Word), (∀ j, j < s.instanceCount → ¬ (Config.tseBase j ≤ a ∧ a < Config.tseBase j + 256)) →
      hostAccess (.regRead 4 (.bus a)) s = .fault .noSuchInstance ∧
      hostAccess (.regWrite 4 (.bus a) v) s = .fault .noSuchInstance)
end

