-- ==== Sys2Proof/Laws/State.lean ====
section
/-! SUPPORT. One lemma per field per update of `State`, so that no proof unfolds a record update. -/

namespace Sys2Proof.Machine

variable (s : State)

/-! ## `raise` (R381) -/

@[simp] theorem State.raise_params (e : CmdError) : (s.raise e).regs.params = s.regs.params := rfl
@[simp] theorem State.raise_results (e : CmdError) : (s.raise e).regs.results = Results.of (statusError e) 0 0 := rfl
@[simp] theorem State.raise_selected (e : CmdError) : (s.raise e).selected = s.selected := rfl
@[simp] theorem State.raise_others (e : CmdError) : (s.raise e).others = s.others := rfl
@[simp] theorem State.raise_mem (e : CmdError) : (s.raise e).mem = s.mem := rfl
@[simp] theorem State.raise_pending (e : CmdError) : (s.raise e).pending = s.pending := rfl
@[simp] theorem State.raise_answer (e : CmdError) : (s.raise e).answer = s.answer := rfl

/-! ## `succeedValue` (R380) -/

@[simp] theorem State.succeedValue_params (v : Nat) : (s.succeedValue v).regs.params = s.regs.params := rfl
@[simp] theorem State.succeedValue_results (v : Nat) :
    (s.succeedValue v).regs.results = Results.of statusOk 0 v := rfl
@[simp] theorem State.succeedValue_selected (v : Nat) : (s.succeedValue v).selected = s.selected := rfl
@[simp] theorem State.succeedValue_others (v : Nat) : (s.succeedValue v).others = s.others := rfl
@[simp] theorem State.succeedValue_mem (v : Nat) : (s.succeedValue v).mem = s.mem := rfl
@[simp] theorem State.succeedValue_pending (v : Nat) : (s.succeedValue v).pending = s.pending := rfl
@[simp] theorem State.succeedValue_answer (v : Nat) : (s.succeedValue v).answer = s.answer := rfl

/-! ## `succeedOutput` (R380, R63) -/

variable (out : List Byte)

@[simp] theorem State.succeedOutput_params : (s.succeedOutput out).regs.params = s.regs.params := rfl
@[simp] theorem State.succeedOutput_results :
    (s.succeedOutput out).regs.results = Results.of statusOk out.length 0 := rfl
@[simp] theorem State.succeedOutput_selected : (s.succeedOutput out).selected = s.selected := rfl
@[simp] theorem State.succeedOutput_others : (s.succeedOutput out).others = s.others := rfl
@[simp] theorem State.succeedOutput_mem :
    (s.succeedOutput out).mem = s.mem.writeBytes s.regs.params.dstBase out := rfl
@[simp] theorem State.succeedOutput_pending : (s.succeedOutput out).pending = s.pending := rfl
@[simp] theorem State.succeedOutput_answer : (s.succeedOutput out).answer = s.answer := rfl

/-! ## `complete` -/

@[simp] theorem State.complete_error (e : CmdError) : s.complete (.error e) = s.raise e := rfl
@[simp] theorem State.complete_value (v : Nat) : s.complete (.value v) = s.succeedValue v := rfl
@[simp] theorem State.complete_output : s.complete (.output out) = s.succeedOutput out := rfl

@[simp] theorem State.complete_params (r : CmdResult) : (s.complete r).regs.params = s.regs.params := by
  cases r <;> rfl
@[simp] theorem State.complete_selected (r : CmdResult) : (s.complete r).selected = s.selected := by
  cases r <;> rfl
@[simp] theorem State.complete_others (r : CmdResult) : (s.complete r).others = s.others := by
  cases r <;> rfl
@[simp] theorem State.complete_pending (r : CmdResult) : (s.complete r).pending = s.pending := by
  cases r <;> rfl
@[simp] theorem State.complete_answer (r : CmdResult) : (s.complete r).answer = s.answer := by
  cases r <;> rfl

/-! ## `taking` -/

variable (rest : List HostAccess)

@[simp] theorem State.taking_regs : (s.taking rest).regs = s.regs := rfl
@[simp] theorem State.taking_selected : (s.taking rest).selected = s.selected := rfl
@[simp] theorem State.taking_others : (s.taking rest).others = s.others := rfl
@[simp] theorem State.taking_mem : (s.taking rest).mem = s.mem := rfl
@[simp] theorem State.taking_pending : (s.taking rest).pending = rest := rfl
@[simp] theorem State.taking_answer : (s.taking rest).answer = .none := rfl
@[simp] theorem State.taking_instances : (s.taking rest).instances = s.instances := rfl
@[simp] theorem State.taking_instanceCount : (s.taking rest).instanceCount = s.instanceCount := rfl

/-! ## Resets (R400, R401) -/

@[simp] theorem State.resetSelected_regs : s.resetSelected.regs = RegFile.reset := rfl
@[simp] theorem State.resetSelected_selected : s.resetSelected.selected = s.selected := rfl
@[simp] theorem State.resetSelected_others : s.resetSelected.others = s.others := rfl
@[simp] theorem State.resetSelected_mem : s.resetSelected.mem = s.mem := rfl
@[simp] theorem State.resetSelected_pending : s.resetSelected.pending = s.pending := rfl
@[simp] theorem State.resetSelected_answer : s.resetSelected.answer = s.answer := rfl
@[simp] theorem State.resetEvery_regs : s.resetEvery.regs = RegFile.reset := rfl
@[simp] theorem State.resetEvery_selected : s.resetEvery.selected = s.selected := rfl
@[simp] theorem State.resetEvery_others : s.resetEvery.others = s.others.map fun _ => RegFile.reset := rfl
@[simp] theorem State.resetEvery_mem : s.resetEvery.mem = s.mem := rfl
@[simp] theorem State.resetEvery_pending : s.resetEvery.pending = s.pending := rfl
@[simp] theorem State.resetEvery_answer : s.resetEvery.answer = s.answer := rfl

end Sys2Proof.Machine
end

