-- ==== Sys2Proof/Laws/Registers.lean ====
section
/-! SUPPORT. What the register operations do (R34), the register pairs (R7), and the choice of an instance (R390). -/

namespace Sys2Proof.Machine

/-! ## Parameter registers -/

@[simp] theorem Params.get_set_self (p : Params) (r : ParamReg) (v : Word) : (p.set r v).get r = v := by
  cases r <;> rfl

theorem Params.get_set_of_ne (p : Params) {r r' : ParamReg} (v : Word) (h : r' ≠ r) :
    (p.set r v).get r' = p.get r' := by
  cases r <;> cases r' <;> first | rfl | exact absurd rfl h

/-- The parameter registers are all of `Params`. -/
theorem Params.ext_get {p q : Params} (h : ∀ r, p.get r = q.get r) : p = q := by
  have h1 := h .width; have h2 := h .height; have h3 := h .bpp; have h4 := h .blockW; have h5 := h .blockH
  have h6 := h .blockBytes; have h7 := h .srcBaseLo; have h8 := h .srcBaseHi; have h9 := h .srcLenLo
  have h10 := h .srcLenHi; have h11 := h .dstBaseLo; have h12 := h .dstBaseHi; have h13 := h .dstCapLo
  have h14 := h .dstCapHi; have h15 := h .coordX; have h16 := h .coordY; have h17 := h .coordT
  have h18 := h .ps2SwizzleType; have h19 := h .palEntryBytes; have h20 := h .tileW; have h21 := h .tileH
  have h22 := h .swapUnit; have h23 := h .gobBlockH; have h24 := h .widthPad; have h25 := h .heightPad
  have h26 := h .wiiuFormat; have h27 := h .wiiuTileMode; have h28 := h .wiiuPitch; have h29 := h .wiiuSwizzle
  have h30 := h .wiiuAa; have h31 := h .wiiuSlice; have h32 := h .wiiuSample; have h33 := h .wiiuNumSlices
  have h34 := h .wiiuSurfHeight; have h35 := h .wiiuSurfSizeLo; have h36 := h .wiiuSurfSizeHi
  cases p; cases q
  simp only [Params.get] at *
  subst_vars
  rfl

@[simp] theorem Params.get_reset (r : ParamReg) : Params.reset.get r = 0 := by cases r <;> rfl

/-! ## Register files -/

@[simp] theorem RegFile.readReg_reset (r : Reg) : RegFile.reset.readReg r = 0 := by
  cases r <;> first | rfl | exact Params.get_reset _

@[simp] theorem RegFile.readOffset_reset (offset : Nat) : RegFile.reset.readOffset offset = 0 := by
  unfold RegFile.readOffset
  split <;> simp

/-- The read-only registers and `CMD` keep what they held (R25 to R28). -/
@[simp] theorem RegFile.writeReg_results (f : RegFile) (r : Reg) (v : Word) :
    (f.writeReg r v).results = f.results := by cases r <;> rfl

theorem RegFile.writeReg_of_readOnly (f : RegFile) {r : Reg} (v : Word) (h : ∀ p, r ≠ .param p) :
    f.writeReg r v = f := by
  cases r <;> first | rfl | exact absurd rfl (h _)

@[simp] theorem RegFile.writeReg_param (f : RegFile) (p : ParamReg) (v : Word) :
    f.writeReg (.param p) v = { f with params := f.params.set p v } := rfl

@[simp] theorem RegFile.writeOffset_results (f : RegFile) (offset : Nat) (v : Word) :
    (f.writeOffset offset v).results = f.results := by
  unfold RegFile.writeOffset
  split <;> simp

theorem RegFile.writeOffset_of_reserved (f : RegFile) {offset : Nat} (v : Word) (h : regAt offset = none) :
    f.writeOffset offset v = f := by
  simp [RegFile.writeOffset, h]

theorem RegFile.readOffset_of_reserved (f : RegFile) {offset : Nat} (h : regAt offset = none) :
    f.readOffset offset = 0 := by
  simp [RegFile.readOffset, h]

theorem RegFile.readOffset_of_reg (f : RegFile) {offset : Nat} {r : Reg} (h : regAt offset = some r) :
    f.readOffset offset = f.readReg r := by
  simp [RegFile.readOffset, h]

theorem RegFile.writeOffset_of_reg (f : RegFile) {offset : Nat} {r : Reg} (v : Word) (h : regAt offset = some r) :
    f.writeOffset offset v = f.writeReg r v := by
  simp [RegFile.writeOffset, h]

/-! ## Register pairs (R7) -/

@[simp] theorem toNat_loHalf (v : Nat) : (loHalf v).toNat = v % 2 ^ 32 := by simp [loHalf]

@[simp] theorem toNat_hiHalf (v : Nat) : (hiHalf v).toNat = v / 2 ^ 32 % 2 ^ 32 := by simp [hiHalf]

theorem pair_lt (hi lo : Word) : pair hi lo < 2 ^ 64 := by
  have := hi.isLt; have := lo.isLt
  unfold pair; omega

/-- The two halves of a 64-bit value hold it. -/
theorem pair_halves {v : Nat} (h : v < 2 ^ 64) : pair (hiHalf v) (loHalf v) = v := by
  simp only [pair, toNat_loHalf, toNat_hiHalf]
  omega

theorem loHalf_toNat_pair (hi lo : Word) : loHalf (pair hi lo) = lo := by
  apply BitVec.eq_of_toNat_eq
  have := lo.isLt
  simp only [toNat_loHalf, pair]; omega

theorem hiHalf_toNat_pair (hi lo : Word) : hiHalf (pair hi lo) = hi := by
  apply BitVec.eq_of_toNat_eq
  have := hi.isLt; have := lo.isLt
  simp only [toNat_hiHalf, pair]; omega

/-- The pair as one 64-bit value. -/
theorem toNat_append_pair (hi lo : Word) : (hi ++ lo : BitVec 64).toNat = pair hi lo := by
  rw [BitVec.toNat_append, pair, ← Nat.shiftLeft_add_eq_or_of_lt lo.isLt, Nat.shiftLeft_eq]

theorem Params.dstBase_lt (p : Params) : p.dstBase < 2 ^ 64 := pair_lt _ _

/-! ## Instances -/

theorem State.length_instances (s : State) : s.instances.length = s.others.length + 1 := by
  simp only [State.instances, List.length_append, List.length_take, List.length_cons, List.length_drop]
  omega

@[simp] theorem State.length_instances_eq_count (s : State) : s.instances.length = s.instanceCount :=
  s.length_instances

theorem State.getElem?_instances_selected (s : State) (h : s.selected ≤ s.others.length) :
    s.instances[s.selected]? = some s.regs := by
  rw [State.instances, List.getElem?_append_right (by simp), List.length_take, Nat.min_eq_left h]
  simp

/-- The register file at a number other than the addressed one is among the others. -/
theorem State.eraseIdx_instances (s : State) (h : s.selected ≤ s.others.length) :
    s.instances.eraseIdx s.selected = s.others := by
  have hl : (s.others.take s.selected).length = s.selected := by simp [h]
  rw [State.instances, List.eraseIdx_append_of_length_le (by omega), hl, Nat.sub_self, List.eraseIdx_zero,
    List.tail_cons, List.take_append_drop]

/-- A list with element `k` taken out and put back. -/
theorem rejoin_eraseIdx {α : Type} (l : List α) {k : Nat} {f : α} (h : l[k]? = some f) :
    (l.eraseIdx k).take k ++ f :: (l.eraseIdx k).drop k = l := by
  induction l generalizing k with
  | nil => simp at h
  | cons b l ih =>
    cases k with
    | zero => simp at h; simp [h]
    | succ k => simpa using ih (k := k) (by simpa using h)

/-- Addressing the addressed instance changes nothing. -/
@[simp] theorem State.select_self (s : State) : s.select s.selected = some s := by simp [State.select]

/-- What addressing an instance does: that instance's registers come to the front, and the list of all instances, memory
and the rest stay. -/
theorem State.select_spec {s s' : State} {k : Nat} (hs : s.selected ≤ s.others.length) (h : s.select k = some s') :
    s'.selected = k ∧ s'.instances = s.instances ∧ s.instances[k]? = some s'.regs ∧
      s'.others.length = s.others.length ∧ k ≤ s.others.length ∧
      s'.mem = s.mem ∧ s'.pending = s.pending ∧ s'.answer = s.answer := by
  unfold State.select at h
  split at h
  · rename_i hk
    obtain rfl := Option.some.inj h
    subst hk
    exact ⟨rfl, rfl, s.getElem?_instances_selected hs, rfl, hs, rfl, rfl, rfl⟩
  · split at h
    · rename_i f hf
      obtain rfl := Option.some.inj h
      have hk : k < s.instances.length := (List.getElem?_eq_some_iff.1 hf).1
      have hlen := s.length_instances
      refine ⟨rfl, ?_, hf, ?_, by omega, rfl, rfl, rfl⟩
      · exact rejoin_eraseIdx s.instances hf
      · simp only [List.length_eraseIdx_of_lt hk]; omega
    · cases h

/-- An instance can be addressed exactly when it exists. -/
theorem State.select_isSome {s : State} {k : Nat} (hk : k < s.instanceCount) :
    ∃ s', s.select k = some s' := by
  unfold State.select
  split
  · exact ⟨s, rfl⟩
  · have : k < s.instances.length := by simpa using hk
    rw [List.getElem?_eq_getElem this]
    exact ⟨_, rfl⟩

/-- An instance with a register file can be addressed. -/
theorem State.select_of_getElem? {s : State} {k : Nat} {f : RegFile} (h : s.instances[k]? = some f) :
    ∃ s', s.select k = some s' :=
  State.select_isSome (by simpa using (List.getElem?_eq_some_iff.1 h).1)

/-- Where there is no instance, none can be addressed. -/
theorem State.select_eq_none {s : State} {k : Nat} (hs : s.selected ≤ s.others.length)
    (h : s.instances[k]? = none) : s.select k = none := by
  have hk : k ≠ s.selected := by
    rintro rfl
    rw [s.getElem?_instances_selected hs] at h
    cases h
  simp [State.select, hk, h]

/-- New registers at the addressed instance: the list of all instances has them at its number. -/
theorem State.instances_with_regs {s : State} (hs : s.selected ≤ s.others.length) (f : RegFile) :
    ({ s with regs := f } : State).instances = s.instances.set s.selected f := by
  have hl : (s.others.take s.selected).length = s.selected := by simp [hs]
  simp only [State.instances]
  rw [List.set_append_right _ _ (by omega), hl, Nat.sub_self, List.set_cons_zero]

end Sys2Proof.Machine
end

