-- ==== Sys2Proof/Laws/Checks.lean ====
section
/-! SUPPORT. What the checks of a command do (R126), and how a command that runs checks ends. -/

namespace Sys2Proof.Machine

/-! ## `firstError` -/

@[simp] theorem firstError_nil : firstError [] = none := rfl

theorem firstError_cons (c : Check) (cs : List Check) :
    firstError (c :: cs) = if c.fails then some c.err else firstError cs := rfl

theorem firstError_append (cs ds : List Check) :
    firstError (cs ++ ds) = (firstError cs).or (firstError ds) := by
  induction cs with
  | nil => simp
  | cons c cs ih =>
    simp only [List.cons_append, firstError_cons, ih]
    split <;> rfl

/-- No check raises an error exactly when none fails. -/
theorem firstError_eq_none {cs : List Check} : firstError cs = none ↔ ∀ c ∈ cs, c.fails = false := by
  induction cs with
  | nil => simp
  | cons c cs ih =>
    rw [firstError_cons]
    by_cases h : c.fails = true
    · simp [h]
    · simp [h, ih]

/-- The error raised is that of a failing check before which none fails (R126). -/
theorem firstError_eq_some {cs : List Check} {e : CmdError} :
    firstError cs = some e ↔
      ∃ before c after, cs = before ++ c :: after ∧ (∀ d ∈ before, d.fails = false) ∧ c.fails = true ∧ c.err = e := by
  induction cs with
  | nil => simp
  | cons c cs ih =>
    rw [firstError_cons]
    by_cases h : c.fails = true
    · simp only [h, if_true]
      constructor
      · intro he
        exact ⟨[], c, cs, rfl, by simp, h, Option.some.inj he⟩
      · rintro ⟨before, d, after, heq, hb, hd, rfl⟩
        cases before with
        | nil => simp at heq; rw [heq.1]
        | cons b bs =>
          simp at heq
          have := hb b (by simp)
          rw [← heq.1, h] at this
          cases this
    · simp only [h, if_false, Bool.false_eq_true]
      rw [ih]
      constructor
      · rintro ⟨before, d, after, rfl, hb, hd, he⟩
        refine ⟨c :: before, d, after, rfl, fun x hx => ?_, hd, he⟩
        rcases List.mem_cons.1 hx with rfl | hx
        · simpa using h
        · exact hb x hx
      · rintro ⟨before, d, after, heq, hb, hd, he⟩
        cases before with
        | nil =>
          simp at heq
          rw [← heq.1] at hd
          exact absurd hd h
        | cons b bs =>
          simp at heq
          exact ⟨bs, d, after, heq.2, fun x hx => hb x (by simp [hx]), hd, he⟩

theorem firstError_mem {cs : List Check} {e : CmdError} (h : firstError cs = some e) : e ∈ cs.map Check.err := by
  obtain ⟨before, c, after, rfl, -, -, rfl⟩ := firstError_eq_some.1 h
  simp

/-! ## The shared checks -/

@[simp] theorem checkSize_fails (p : Params) : (checkSize p).fails = true ↔ p.width = 0 ∨ p.height = 0 := by
  simp [checkSize, BitVec.toNat_eq]

@[simp] theorem checkSize_err (p : Params) : (checkSize p).err = .ig 0x01 := rfl

@[simp] theorem checkBlock_fails (p : Params) :
    (checkBlock p).fails = true ↔ p.blockW = 0 ∨ p.blockH = 0 ∨ p.blockBytes = 0 := by
  simp [checkBlock, BitVec.toNat_eq, or_assoc]

@[simp] theorem checkBlock_err (p : Params) : (checkBlock p).err = .ig 0x02 := rfl

/-- R65: the test is that both ranges hold a common address. -/
theorem rangesShare_eq_true {srcBase srcLen dstBase outLen : Nat} :
    rangesShare srcBase srcLen dstBase outLen = true ↔
      ∃ a, (srcBase ≤ a ∧ a < srcBase + srcLen) ∧ (dstBase ≤ a ∧ a < dstBase + outLen) := by
  simp only [rangesShare, Bool.and_eq_true, decide_eq_true_eq]
  constructor
  · rintro ⟨⟨⟨_, _⟩, _⟩, _⟩
    exact ⟨max srcBase dstBase, by omega, by omega⟩
  · rintro ⟨a, _, _⟩
    omega

/-- What it takes for the buffers to pass stage 4 of R126. -/
theorem firstError_bufferChecks {p : Params} {srcLen outLen : Nat} :
    firstError (bufferChecks p srcLen outLen) = none ↔
      p.srcLen = srcLen ∧ outLen ≤ p.dstCap ∧ p.srcBase + p.srcLen ≤ 2 ^ 64 ∧ p.dstBase + outLen ≤ 2 ^ 64 ∧
        rangesShare p.srcBase p.srcLen p.dstBase outLen = false := by
  rw [firstError_eq_none]
  simp only [bufferChecks, List.forall_mem_cons, List.not_mem_nil, false_implies, implies_true, and_true,
    bne_eq_false_iff_eq, decide_eq_false_iff_not, Bool.or_eq_false_iff, Nat.not_lt, and_assoc]

/-- The errors stage 4 of R126 can end in. -/
theorem bufferChecks_errors (p : Params) (srcLen outLen : Nat) :
    (bufferChecks p srcLen outLen).map Check.err = [.ig 0x10, .ig 0x11, .ig 0x12, .ig 0x13] := rfl

/-! ## How a command with checks ends -/

/-- Everything `remapResult` can do. -/
theorem remapResult_cases (cs : List Check) (out : List Byte) :
    (∃ e, firstError cs = some e ∧ remapResult cs out = .error e) ∨
      (firstError cs = none ∧ remapResult cs out = .output out) := by
  unfold remapResult
  split
  · exact .inl ⟨_, ‹_›, rfl⟩
  · exact .inr ⟨‹_›, rfl⟩

theorem remapResult_of_fails {c : Check} {cs : List Check} {out : List Byte} (h : c.fails = true) :
    remapResult (c :: cs) out = .error c.err := by
  simp [remapResult, firstError_cons, h]

theorem remapResult_of_passes {c : Check} {cs : List Check} {out : List Byte} (h : ¬ c.fails = true) :
    remapResult (c :: cs) out = remapResult cs out := by
  simp [remapResult, firstError_cons, h]

@[simp] theorem remapResult_nil (out : List Byte) : remapResult [] out = .output out := rfl

/-- Everything `valueResult` can do. -/
theorem valueResult_cases (cs : List Check) (v : Nat) :
    (∃ e, firstError cs = some e ∧ valueResult cs v = .error e) ∨
      (firstError cs = none ∧ valueResult cs v = .value v) := by
  unfold valueResult
  split
  · exact .inl ⟨_, ‹_›, rfl⟩
  · exact .inr ⟨‹_›, rfl⟩

theorem valueResult_of_fails {c : Check} {cs : List Check} {v : Nat} (h : c.fails = true) :
    valueResult (c :: cs) v = .error c.err := by
  simp [valueResult, firstError_cons, h]

theorem valueResult_of_passes {c : Check} {cs : List Check} {v : Nat} (h : ¬ c.fails = true) :
    valueResult (c :: cs) v = valueResult cs v := by
  simp [valueResult, firstError_cons, h]

@[simp] theorem valueResult_nil (v : Nat) : valueResult [] v = .value v := rfl

/-- What the two checks of stage 3 that every `.ADDR` but PS2.PAL's has find (R125, R372). -/
theorem firstError_addrChecks (inDomain : Bool) (a : Nat) :
    firstError (addrChecks inDomain a) =
      if inDomain = false then some (.ig 0x0A) else if 2 ^ 64 ≤ a then some (.ig 0x0B) else none := by
  cases inDomain <;> simp [addrChecks, firstError_cons]

/-- Everything `addrResult` can do (R125). -/
theorem addrResult_cases (cs : List Check) (inDomain : Bool) (a : Nat) :
    (∃ e, firstError cs = some e ∧ addrResult cs inDomain a = .error e) ∨
      (firstError cs = none ∧ inDomain = false ∧ addrResult cs inDomain a = .error (.ig 0x0A)) ∨
      (firstError cs = none ∧ inDomain = true ∧ 2 ^ 64 ≤ a ∧ addrResult cs inDomain a = .error (.ig 0x0B)) ∨
      (firstError cs = none ∧ inDomain = true ∧ a < 2 ^ 64 ∧ addrResult cs inDomain a = .value a) := by
  unfold addrResult valueResult
  rw [firstError_append, firstError_addrChecks]
  cases firstError cs with
  | some e => exact .inl ⟨e, rfl, rfl⟩
  | none =>
    right
    cases inDomain with
    | false => exact .inl ⟨rfl, rfl, rfl⟩
    | true =>
      by_cases ha : 2 ^ 64 ≤ a
      · exact .inr (.inl ⟨rfl, rfl, ha, by rw [if_neg (by decide), if_pos ha]; rfl⟩)
      · exact .inr (.inr ⟨rfl, rfl, by omega, by rw [if_neg (by decide), if_neg ha]; rfl⟩)

theorem addrResult_of_fails {c : Check} {cs : List Check} {d : Bool} {a : Nat} (h : c.fails = true) :
    addrResult (c :: cs) d a = .error c.err :=
  valueResult_of_fails h

theorem addrResult_of_passes {c : Check} {cs : List Check} {d : Bool} {a : Nat} (h : ¬ c.fails = true) :
    addrResult (c :: cs) d a = addrResult cs d a :=
  valueResult_of_passes h

/-- Everything `PS2.4.ADDR` can do, whatever its OPEN functions are (R276, and IG 0x0B by R125 and R372): the family's
checks, IG 0x0A, IG 0x0B, OOB 0x01, in this order. -/
theorem ps24Addr_cases (f : Ps24Functions) (p : Params) :
    let a := f.addr p.coordX.toNat p.coordY.toNat p.width.toNat p.height.toNat
    let inside := p.coordX.toNat < p.width.toNat ∧ p.coordY.toNat < p.height.toNat
    (∃ e, firstError (ps24Checks f p) = some e ∧ ps24Addr f p = .error e) ∨
      (firstError (ps24Checks f p) = none ∧ ¬ inside ∧ ps24Addr f p = .error (.ig 0x0A)) ∨
      (firstError (ps24Checks f p) = none ∧ inside ∧ 2 ^ 64 ≤ a ∧ ps24Addr f p = .error (.ig 0x0B)) ∨
      (firstError (ps24Checks f p) = none ∧ inside ∧ a < 2 ^ 64 ∧ ps24Texels p ≤ a ∧
        ps24Addr f p = .error (.oob 0x01)) ∨
      (firstError (ps24Checks f p) = none ∧ inside ∧ a < 2 ^ 64 ∧ a < ps24Texels p ∧ ps24Addr f p = .value a) := by
  intro a inside
  unfold ps24Addr valueResult
  simp only [firstError_append, firstError_addrChecks, firstError_cons, firstError_nil, decide_eq_true_eq,
    Bool.and_eq_false_iff, decide_eq_false_iff_not]
  cases firstError (ps24Checks f p) with
  | some e => exact .inl ⟨e, rfl, rfl⟩
  | none =>
    right
    by_cases hin : inside
    · have hin' : ¬ (¬ p.coordX.toNat < p.width.toNat ∨ ¬ p.coordY.toNat < p.height.toNat) := by tauto
      rw [if_neg hin']
      by_cases hfit : 2 ^ 64 ≤ a
      · exact .inr (.inl ⟨rfl, hin, hfit, by rw [if_pos hfit]; rfl⟩)
      · rw [if_neg hfit]
        by_cases hN : ps24Texels p ≤ a
        · exact .inr (.inr (.inl ⟨rfl, hin, by omega, hN, by rw [if_pos hN]; rfl⟩))
        · exact .inr (.inr (.inr ⟨rfl, hin, by omega, by omega, by rw [if_neg hN]; rfl⟩))
    · have hin' : ¬ p.coordX.toNat < p.width.toNat ∨ ¬ p.coordY.toNat < p.height.toNat := by tauto
      exact .inl ⟨rfl, hin, by rw [if_pos hin']; rfl⟩

/-- Everything `idxResult` can do (R156, R157). -/
theorem idxResult_cases (p : Params) (index : Nat → Nat → Nat → Nat) :
    ((p.width = 0 ∨ p.height = 0) ∧ idxResult p index = .error (.ig 0x01)) ∨
      (¬ (p.width = 0 ∨ p.height = 0) ∧ p.width.toNat * p.height.toNat ≤ p.coordT.toNat ∧
        idxResult p index = .error (.ig 0x0A)) ∨
      (¬ (p.width = 0 ∨ p.height = 0) ∧ p.coordT.toNat < p.width.toNat * p.height.toNat ∧
        idxResult p index = .value (index p.coordT.toNat p.width.toNat p.height.toNat)) := by
  unfold idxResult valueResult
  simp only [firstError_cons, checkSize_fails, checkSize_err, firstError_nil]
  by_cases h : p.width = 0 ∨ p.height = 0
  · exact .inl ⟨h, by rw [if_pos h]⟩
  · rw [if_neg h]
    by_cases ht : p.width.toNat * p.height.toNat ≤ p.coordT.toNat
    · exact .inr (.inl ⟨h, ht, by rw [decide_eq_true ht]; rfl⟩)
    · exact .inr (.inr ⟨h, by omega, by rw [decide_eq_false ht]; rfl⟩)

end Sys2Proof.Machine
end

