-- ==== Sys2Proof/Laws/Memory.lean ====
section
/-! SUPPORT. What the operations over external memory do, and that each keeps the canonical form. -/

namespace Sys2Proof.Machine

variable {m m' : Memory} {a x n : Nat} {bs : List Byte}

/-! ## Reading one byte -/

@[simp] theorem Memory.read_nil (x : Nat) : Memory.read [] x = unlistedByte := rfl

theorem Memory.read_cons (c : Host.Cell) (m : Memory) (x : Nat) :
    Memory.read (c :: m) x = if x = c.1 then c.2 else Memory.read m x := rfl

/-- An address no entry names reads as an unlisted one. -/
theorem Memory.read_unlisted (h : ∀ c ∈ m, c.1 ≠ x) : m.read x = unlistedByte := by
  induction m with
  | nil => rfl
  | cons c m ih =>
    rw [Memory.read_cons, if_neg (Ne.symm (h c (by simp)))]
    exact ih fun d hd => h d (by simp [hd])

/-- Entries that do not name the address do not matter, in front. -/
theorem Memory.read_append_of_ne (h : ∀ c ∈ m, c.1 ≠ x) : (m ++ m').read x = Memory.read m' x := by
  induction m with
  | nil => rfl
  | cons c m ih =>
    rw [List.cons_append, Memory.read_cons, if_neg (Ne.symm (h c (by simp)))]
    exact ih fun d hd => h d (by simp [hd])

/-- Entries that do not name the address do not matter, behind. -/
theorem Memory.read_append_of_ne_right (h : ∀ c ∈ m', c.1 ≠ x) : (m ++ m').read x = Memory.read m x := by
  induction m with
  | nil => exact Memory.read_unlisted h
  | cons c m ih => simp only [List.cons_append, Memory.read_cons, ih]

/-- Keeping the entries of a set of addresses keeps the bytes of that set. -/
theorem Memory.read_filter (p : Nat → Bool) (hx : p x = true) :
    Memory.read (m.filter fun c => p c.1) x = m.read x := by
  induction m with
  | nil => rfl
  | cons c m ih =>
    by_cases hc : p c.1 = true
    · simp only [List.filter_cons_of_pos, hc, Memory.read_cons, ih]
    · have hne : x ≠ c.1 := fun h => hc (h ▸ hx)
      rw [List.filter_cons_of_neg (by simpa using hc), Memory.read_cons, if_neg hne, ih]

/-! ## The entries of stored bytes -/

theorem Memory.cellsFrom_bounds (c : Host.Cell) (h : c ∈ Memory.cellsFrom a bs) :
    a ≤ c.1 ∧ c.1 < a + bs.length ∧ c.2 ≠ unlistedByte := by
  induction bs generalizing a with
  | nil => simp [Memory.cellsFrom] at h
  | cons b bs ih =>
    simp only [Memory.cellsFrom] at h
    simp only [List.length_cons]
    split at h
    · obtain ⟨h1, h2, h3⟩ := ih h
      exact ⟨by omega, by omega, h3⟩
    · rename_i hb
      rcases List.mem_cons.1 h with rfl | h
      · exact ⟨le_rfl, by simp, hb⟩
      · obtain ⟨h1, h2, h3⟩ := ih h
        exact ⟨by omega, by omega, h3⟩

theorem Memory.cellsFrom_pairwise (a : Nat) (bs : List Byte) :
    (Memory.cellsFrom a bs).Pairwise (fun c d => c.1 < d.1) := by
  induction bs generalizing a with
  | nil => simp [Memory.cellsFrom]
  | cons b bs ih =>
    simp only [Memory.cellsFrom]
    split
    · exact ih _
    · refine List.pairwise_cons.2 ⟨fun c hc => ?_, ih _⟩
      have := Memory.cellsFrom_bounds c hc
      exact this.1

theorem Memory.read_cellsFrom (hlo : a ≤ x) :
    (Memory.cellsFrom a bs).read x = bs.getD (x - a) unlistedByte := by
  induction bs generalizing a with
  | nil => simp [Memory.cellsFrom]
  | cons b bs ih =>
    simp only [Memory.cellsFrom]
    rcases Nat.eq_or_lt_of_le hlo with rfl | hlt
    · split
      · rename_i hb
        rw [Memory.read_unlisted, Nat.sub_self, hb]
        · rfl
        · intro c hc
          have := Memory.cellsFrom_bounds c hc
          omega
      · simp [Memory.read_cons]
    · have hx : x - a = (x - (a + 1)) + 1 := by omega
      split
      · rw [ih (by omega), hx, List.getD_cons_succ]
      · rw [Memory.read_cons, if_neg (by simp; omega), ih (by omega), hx, List.getD_cons_succ]

/-! ## Storing bytes (R63) -/

/-- What memory reads as after a store: the stored bytes in their range, and what it held elsewhere. -/
theorem Memory.read_writeBytes (m : Memory) (a : Nat) (bs : List Byte) (x : Nat) :
    (m.writeBytes a bs).read x =
      if a ≤ x ∧ x < a + bs.length then bs.getD (x - a) unlistedByte else m.read x := by
  simp only [Memory.writeBytes]
  by_cases h1 : x < a
  · rw [if_neg (by omega), List.append_assoc, Memory.read_append_of_ne_right,
      Memory.read_filter (fun y => decide (y < a)) (by simpa using h1)]
    intro c hc
    rcases List.mem_append.1 hc with hc | hc
    · have := Memory.cellsFrom_bounds c hc; omega
    · simp at hc; omega
  · rw [List.append_assoc, Memory.read_append_of_ne (by intro c hc; simp at hc; omega)]
    by_cases h2 : x < a + bs.length
    · rw [if_pos (by omega), Memory.read_append_of_ne_right (by intro c hc; simp at hc; omega),
        Memory.read_cellsFrom (by omega)]
    · rw [if_neg (by omega), Memory.read_append_of_ne,
        Memory.read_filter (fun y => decide (a + bs.length ≤ y)) (by simp; omega)]
      intro c hc
      have := Memory.cellsFrom_bounds c hc; omega

theorem Memory.read_writeBytes_of_mem (h : n < bs.length) :
    (m.writeBytes a bs).read (a + n) = bs.getD n unlistedByte := by
  rw [Memory.read_writeBytes, if_pos (by omega), Nat.add_sub_cancel_left]

theorem Memory.read_writeBytes_of_outside (h : x < a ∨ a + bs.length ≤ x) :
    (m.writeBytes a bs).read x = m.read x := by
  rw [Memory.read_writeBytes, if_neg (by omega)]

/-- A store inside the address space keeps the canonical form. -/
theorem Memory.wf_writeBytes (h : m.wf) (hn : a + bs.length ≤ 2 ^ 64) : (m.writeBytes a bs).wf := by
  obtain ⟨hp, hv⟩ := h
  refine ⟨?_, fun c hc => ?_⟩
  · simp only [Memory.writeBytes]
    refine List.pairwise_append.2 ⟨List.pairwise_append.2 ⟨hp.filter _, Memory.cellsFrom_pairwise _ _, ?_⟩,
      hp.filter _, ?_⟩
    · intro c hc d hd
      have := Memory.cellsFrom_bounds d hd
      simp at hc; omega
    · intro c hc d hd
      simp at hd
      rcases List.mem_append.1 hc with hc | hc
      · simp at hc; omega
      · have := Memory.cellsFrom_bounds c hc; omega
  · simp only [Memory.writeBytes, List.mem_append, List.mem_filter] at hc
    rcases hc with (⟨hc, -⟩ | hc) | ⟨hc, -⟩
    · exact hv c hc
    · have := Memory.cellsFrom_bounds c hc
      exact ⟨this.2.2, by omega⟩
    · exact hv c hc

/-- Canonical memories that read alike everywhere are equal data. -/
theorem Memory.eq_of_read (hm : m.wf) (hm' : m'.wf) (h : ∀ x, m.read x = m'.read x) : m = m' := by
  have low : ∀ {c : Host.Cell} {m : Memory}, Memory.wf (c :: m) → ∀ y, y < c.1 → m.read y = unlistedByte :=
    fun hw y hy => Memory.read_unlisted fun d hd => by
      have := (List.pairwise_cons.1 hw.1).1 d hd; omega
  have tail : ∀ {c : Host.Cell} {m : Memory}, Memory.wf (c :: m) → Memory.wf m :=
    fun hw => ⟨(List.pairwise_cons.1 hw.1).2, fun d hd => hw.2 d (List.mem_cons_of_mem _ hd)⟩
  have self : ∀ {c : Host.Cell} {m : Memory}, Memory.wf (c :: m) → m.read c.1 = unlistedByte :=
    fun hw => Memory.read_unlisted fun d hd => by
      have := (List.pairwise_cons.1 hw.1).1 d hd; omega
  induction m generalizing m' with
  | nil =>
    cases m' with
    | nil => rfl
    | cons d m' =>
      have := h d.1
      simp only [Memory.read_nil, Memory.read_cons, if_true] at this
      exact absurd this.symm (hm'.2 d (by simp)).1
  | cons c m ih =>
    cases m' with
    | nil =>
      have := h c.1
      simp only [Memory.read_nil, Memory.read_cons, if_true] at this
      exact absurd this (hm.2 c (by simp)).1
    | cons d m' =>
      have hc := h c.1
      have hd := h d.1
      simp only [Memory.read_cons, if_true] at hc hd
      rcases Nat.lt_trichotomy c.1 d.1 with hlt | heq | hlt
      · rw [if_neg (by omega), low hm' _ hlt] at hc
        exact absurd hc (hm.2 c (by simp)).1
      · rw [if_pos heq] at hc
        have hcd : c = d := Prod.ext heq hc
        subst hcd
        rw [ih (tail hm) (tail hm') fun x => ?_]
        have hx := h x
        simp only [Memory.read_cons] at hx
        by_cases hxc : x = c.1
        · subst hxc; rw [self hm, self hm']
        · rwa [if_neg hxc, if_neg hxc] at hx
      · rw [if_neg (by omega), low hm _ hlt] at hd
        exact absurd hd.symm (hm'.2 d (by simp)).1

/-! ## Reading a range (R62) -/

@[simp] theorem Memory.length_readBytes (m : Memory) (a n : Nat) : (m.readBytes a n).length = n := by
  simp [Memory.readBytes]

theorem Memory.getD_readBytes (h : x < n) (d : Byte) : (m.readBytes a n).getD x d = m.read (a + x) := by
  simp [Memory.readBytes, List.getD_eq_getElem?_getD, List.getElem?_map, List.getElem?_range h]

/-- Two memories that agree on a range give the same bytes. -/
theorem Memory.readBytes_congr (h : ∀ k, k < n → m'.read (a + k) = m.read (a + k)) :
    m'.readBytes a n = m.readBytes a n :=
  List.map_congr_left fun k hk => h k (List.mem_range.1 hk)

@[simp] theorem State.length_source (s : State) : s.source.length = s.regs.params.srcLen := by
  simp [State.source]

theorem State.getD_source (s : State) (h : x < s.regs.params.srcLen) :
    s.source.getD x 0 = s.mem.read (s.regs.params.srcBase + x) := Memory.getD_readBytes h 0

end Sys2Proof.Machine
end

