-- ==== Sys2Proof/Laws/Remap.lean ====
section
/-! SUPPORT. What the loops of the remap contract do (R123, R124): the length of the output, and each of its elements. -/

namespace Sys2Proof.Machine

variable {α : Type} (zero : α)

/-! ## `slice` and `splice` (R10) -/

@[simp] theorem length_slice (buf : List α) (i n : Nat) : (slice zero buf i n).length = n := by simp [slice]

theorem getD_slice (buf : List α) (i : Nat) {n k : Nat} (h : k < n) :
    (slice zero buf i n).getD k zero = buf.getD (i + k) zero := by
  simp [slice, List.getD_eq_getElem?_getD, List.getElem?_map, List.getElem?_range h]

@[simp] theorem length_splice (buf : List α) (i : Nat) (vs : List α) : (splice buf i vs).length = buf.length := by
  induction buf generalizing i vs with
  | nil => simp [splice]
  | cons b buf ih =>
    cases i with
    | zero => cases vs <;> simp [splice, ih]
    | succ i => simp [splice, ih]

/-- What the elements are after a splice: the new ones in their range, the old ones elsewhere. -/
theorem getD_splice (buf : List α) (i : Nat) (vs : List α) (j : Nat) :
    (splice buf i vs).getD j zero =
      if i ≤ j ∧ j < i + vs.length ∧ j < buf.length then vs.getD (j - i) zero else buf.getD j zero := by
  induction buf generalizing i vs j with
  | nil => simp [splice]
  | cons b buf ih =>
    cases i with
    | zero =>
      cases vs with
      | nil => simp [splice]
      | cons v vs =>
        cases j with
        | zero => simp [splice]
        | succ j => simpa [splice] using ih 0 vs j
    | succ i =>
      cases j with
      | zero => simp [splice]
      | succ j =>
        simp only [splice, List.getD_cons_succ, ih, List.length_cons, Nat.add_sub_add_right]
        congr 1
        simp only [eq_iff_iff]; omega

/-! ## `.UNSWZ` (R123) -/

theorem length_flatMap_range (f : Nat → List α) (n m : Nat) (h : ∀ i, i < n → (f i).length = m) :
    ((List.range n).flatMap f).length = n * m := by
  induction n with
  | zero => simp
  | succ n ih =>
    rw [List.range_succ, List.flatMap_append, List.length_append, ih fun i hi => h i (by omega)]
    simp [h n (by omega), Nat.succ_mul]

theorem getD_flatMap_range (f : Nat → List α) (n m : Nat) (h : ∀ i, i < n → (f i).length = m) {i k : Nat}
    (hi : i < n) (hk : k < m) :
    ((List.range n).flatMap f).getD (i * m + k) zero = (f i).getD k zero := by
  induction n with
  | zero => omega
  | succ n ih =>
    have hl := length_flatMap_range f n m fun i hi => h i (by omega)
    rw [List.range_succ, List.flatMap_append]
    simp only [List.flatMap_cons, List.flatMap_nil, List.append_nil]
    rcases Nat.lt_or_ge i n with hin | hin
    · have : i * m + k < n * m := by
        have := Nat.mul_le_mul_right m (Nat.succ_le_of_lt hin)
        rw [Nat.succ_mul] at this; omega
      rw [List.getD_append _ _ _ _ (by omega), ih (fun i hi => h i (by omega)) hin]
    · obtain rfl : i = n := by omega
      rw [List.getD_append_right _ _ _ _ (by omega), hl, Nat.add_sub_cancel_left]

@[simp] theorem length_unswizzle (lay : Layout) (src : List α) : (unswizzle zero lay src).length = lay.linLen :=
  length_flatMap_range _ _ _ fun _ _ => length_slice ..

/-- R123: element `k` of the unit at linear position `i` comes from where the layout keeps it. -/
theorem getD_unswizzle (lay : Layout) (src : List α) {i k : Nat} (hi : i < lay.count) (hk : k < lay.unit) :
    (unswizzle zero lay src).getD (i * lay.unit + k) zero = src.getD (lay.addr i + k) zero := by
  rw [unswizzle, getD_flatMap_range zero _ _ _ (fun _ _ => length_slice ..) hi hk, getD_slice zero src _ hk]

/-! ## `.SWZ` (R124) -/

/-- The buffer of the `.SWZ` loop after its first `n` units. -/
def swizzleUpTo (lay : Layout) (src : List α) (n : Nat) : List α :=
  (List.range n).foldl
    (fun out i => splice out (lay.addr i) (slice zero src (i * lay.unit) lay.unit))
    (List.replicate lay.swzLen zero)

theorem swizzle_eq_upTo (lay : Layout) (src : List α) : swizzle zero lay src = swizzleUpTo zero lay src lay.count := rfl

theorem swizzleUpTo_succ (lay : Layout) (src : List α) (n : Nat) :
    swizzleUpTo zero lay src (n + 1) =
      splice (swizzleUpTo zero lay src n) (lay.addr n) (slice zero src (n * lay.unit) lay.unit) := by
  simp [swizzleUpTo, List.range_succ]

@[simp] theorem length_swizzleUpTo (lay : Layout) (src : List α) (n : Nat) :
    (swizzleUpTo zero lay src n).length = lay.swzLen := by
  induction n with
  | zero => simp [swizzleUpTo]
  | succ n ih => simp [swizzleUpTo_succ, ih]

@[simp] theorem length_swizzle (lay : Layout) (src : List α) : (swizzle zero lay src).length = lay.swzLen :=
  length_swizzleUpTo zero lay src lay.count

/-- R127: an element no unit covers is zero. -/
theorem getD_swizzleUpTo_of_uncovered (lay : Layout) (src : List α) (n : Nat) {j : Nat}
    (h : ∀ i, i < n → ¬ (lay.addr i ≤ j ∧ j < lay.addr i + lay.unit)) :
    (swizzleUpTo zero lay src n).getD j zero = zero := by
  induction n with
  | zero =>
    simp only [swizzleUpTo, List.range_zero, List.foldl_nil, List.getD_eq_getElem?_getD, List.getElem?_replicate]
    split <;> rfl
  | succ n ih =>
    rw [swizzleUpTo_succ, getD_splice, if_neg, ih fun i hi => h i (by omega)]
    have := h n (by omega)
    simp only [length_slice]; omega

theorem getD_swizzle_of_uncovered (lay : Layout) (src : List α) {j : Nat} (h : ¬ lay.Covers j) :
    (swizzle zero lay src).getD j zero = zero :=
  getD_swizzleUpTo_of_uncovered zero lay src lay.count fun i hi hc => h ⟨i, hi, hc⟩

theorem getD_swizzleUpTo (lay : Layout) (src : List α) (hp : lay.Placed) (ha : lay.Apart) {n i k : Nat}
    (hn : n ≤ lay.count) (hi : i < n) (hk : k < lay.unit) :
    (swizzleUpTo zero lay src n).getD (lay.addr i + k) zero = src.getD (i * lay.unit + k) zero := by
  induction n with
  | zero => omega
  | succ n ih =>
    have hpi := hp i (by omega)
    rw [swizzleUpTo_succ, getD_splice]
    simp only [length_slice, length_swizzleUpTo]
    rcases Nat.lt_or_ge i n with hin | hin
    · have := ha i n (by omega) (by omega) (by omega)
      rw [if_neg (by omega), ih (by omega) hin]
    · obtain rfl : i = n := by omega
      rw [if_pos (by omega), Nat.add_sub_cancel_left, getD_slice zero src _ hk]

/-- R124: element `k` of the unit at linear position `i` goes where the layout keeps it. -/
theorem getD_swizzle (lay : Layout) (src : List α) (hp : lay.Placed) (ha : lay.Apart) {i k : Nat}
    (hi : i < lay.count) (hk : k < lay.unit) :
    (swizzle zero lay src).getD (lay.addr i + k) zero = src.getD (i * lay.unit + k) zero :=
  getD_swizzleUpTo zero lay src hp ha le_rfl hi hk

/-! ## The run-time range test (R134) -/

theorem Layout.placedTest_iff (lay : Layout) : lay.placedTest = true ↔ lay.Placed := by
  simp [Layout.placedTest, Layout.Placed]

theorem Layout.apartTest_iff (lay : Layout) : lay.apartTest = true ↔ lay.Apart := by
  simp only [Layout.apartTest, List.all_eq_true, List.mem_range, Bool.or_eq_true, decide_eq_true_eq, Layout.Apart]
  constructor
  · intro h i j hi hj hne
    rcases Nat.lt_or_gt_of_ne hne with hlt | hlt
    · exact (h j hj i hlt).symm
    · exact h i hi j hlt
  · intro h i hi j hj
    exact h i j hi (by omega) (by omega)

/-! ## A grid of units (R122) -/

@[simp] theorem gridLayout_count (w h B L : Nat) (A : Nat → Nat → Nat) : (gridLayout w h B L A).count = w * h := rfl
@[simp] theorem gridLayout_unit (w h B L : Nat) (A : Nat → Nat → Nat) : (gridLayout w h B L A).unit = B := rfl
@[simp] theorem gridLayout_swzLen (w h B L : Nat) (A : Nat → Nat → Nat) : (gridLayout w h B L A).swzLen = L := rfl
@[simp] theorem gridLayout_linLen (w h B L : Nat) (A : Nat → Nat → Nat) :
    (gridLayout w h B L A).linLen = w * h * B := rfl

theorem gridLayout_addr {w h B L : Nat} {A : Nat → Nat → Nat} {x y : Nat} (hx : x < w) :
    (gridLayout w h B L A).addr (y * w + x) = A x y := by
  have h1 : (y * w + x) % w = x := by rw [Nat.add_comm, Nat.add_mul_mod_self_right, Nat.mod_eq_of_lt hx]
  have h2 : (y * w + x) / w = y := by
    rw [Nat.add_comm, Nat.add_mul_div_right _ _ (by omega), Nat.div_eq_of_lt hx, Nat.zero_add]
  simp [gridLayout, h1, h2]

theorem grid_index_lt {w h x y : Nat} (hx : x < w) (hy : y < h) : y * w + x < w * h := by
  have := Nat.mul_le_mul_right w (Nat.succ_le_of_lt hy)
  rw [Nat.succ_mul] at this
  rw [Nat.mul_comm w h]; omega

theorem grid_column_lt {w h i : Nat} (hi : i < w * h) : i % w < w ∧ i / w < h := by
  have hw : 0 < w := by
    rcases Nat.eq_zero_or_pos w with rfl | hw
    · simp at hi
    · exact hw
  exact ⟨Nat.mod_lt _ hw, Nat.div_lt_of_lt_mul hi⟩

/-- A grid is placed when every unit of the image is. -/
theorem gridLayout_placed {w h B L : Nat} {A : Nat → Nat → Nat}
    (hA : ∀ x y, x < w → y < h → A x y + B ≤ L) : (gridLayout w h B L A).Placed := fun i hi => by
  have := grid_column_lt hi
  exact hA _ _ this.1 this.2

/-- A grid is apart when the ranges of two units of the image that differ are. -/
theorem gridLayout_apart {w h B L : Nat} {A : Nat → Nat → Nat}
    (hA : ∀ x y x' y', x < w → y < h → x' < w → y' < h → (x ≠ x' ∨ y ≠ y') →
      A x y + B ≤ A x' y' ∨ A x' y' + B ≤ A x y) : (gridLayout w h B L A).Apart := fun i j hi hj hne => by
  have h1 := grid_column_lt hi
  have h2 := grid_column_lt hj
  refine hA _ _ _ _ h1.1 h1.2 h2.1 h2.2 ?_
  by_contra hc
  simp only [not_or, not_not] at hc
  exact hne (by rw [← Nat.mod_add_div i w, ← Nat.mod_add_div j w, hc.1, hc.2])

/-- A grid whose addresses are a bijection times the unit size is placed and apart. -/
theorem gridLayout_of_index {w h B : Nat} {I : Nat → Nat → Nat}
    (hlt : ∀ x y, x < w → y < h → I x y < w * h)
    (hinj : ∀ x y x' y', x < w → y < h → x' < w → y' < h → I x y = I x' y' → x = x' ∧ y = y') :
    (gridLayout w h B (w * h * B) fun x y => I x y * B).Placed ∧
      (gridLayout w h B (w * h * B) fun x y => I x y * B).Apart := by
  refine ⟨gridLayout_placed fun x y hx hy => ?_, gridLayout_apart fun x y x' y' hx hy hx' hy' hne => ?_⟩
  · have := Nat.mul_le_mul_right B (Nat.succ_le_of_lt (hlt x y hx hy))
    rwa [Nat.succ_mul] at this
  · have hI : I x y ≠ I x' y' := fun he => by
      have := hinj x y x' y' hx hy hx' hy' he
      omega
    rcases Nat.lt_or_gt_of_ne hI with hlt | hlt
    · have := Nat.mul_le_mul_right B (Nat.succ_le_of_lt hlt)
      rw [Nat.succ_mul] at this; exact .inl this
    · have := Nat.mul_le_mul_right B (Nat.succ_le_of_lt hlt)
      rw [Nat.succ_mul] at this; exact .inr this

end Sys2Proof.Machine
end

