-- ==== Sys2Proof/Laws/Commands.lean ====
section
/-! SUPPORT. How a command ends (R380, R381), in the terms of Sys2Proof/Safety.lean, and the effect of the remap loops
on memory. -/

namespace Sys2Proof.Machine

/-! ## The result registers -/

/-- The word R381 gives is the one the machine stores. -/
theorem statusError_eq_errorWord (e : CmdError) : statusError e = errorWord e := by
  have key : ∀ (c : Nat) (d : BitVec 8), c < 4 →
      BitVec.ofNat 32 (0x3 ||| (c <<< 4) ||| (d.toNat <<< 8)) =
        BitVec.ofNat 32 (0x3 ||| (c <<< 4)) ||| (d.setWidth 32 <<< 8) := by
    intro c d _
    apply BitVec.eq_of_toNat_eq
    have hd : d.toNat <<< 8 < 2 ^ 32 := by
      have := d.isLt
      rw [Nat.shiftLeft_eq]; omega
    have hd' : d.toNat < 2 ^ 32 := by have := d.isLt; omega
    simp only [BitVec.toNat_or, BitVec.toNat_ofNat, BitVec.toNat_shiftLeft, BitVec.toNat_setWidth,
      Nat.mod_eq_of_lt hd, Nat.mod_eq_of_lt hd', Nat.or_mod_two_pow]
  cases e with
  | ig d => exact key 1 d (by omega)
  | up d => exact key 2 d (by omega)
  | oob d => exact key 3 d (by omega)

/-- An error never leaves the word of a success. -/
theorem errorWord_ne_statusOk (e : CmdError) : errorWord e ≠ 1 := by
  intro h
  have h1 : (errorWord e).getLsbD 1 = (1 : Word).getLsbD 1 := by rw [h]
  cases e <;> simp [errorWord] at h1

theorem results_of_error (e : CmdError) : Results.of (statusError e) 0 0 = ⟨errorWord e, 0, 0, 0, 0⟩ := by
  rw [statusError_eq_errorWord]; rfl

/-- Raising an error is the effect R381 states. -/
theorem State.raise_effect (s : State) (e : CmdError) : ErrorEffect s (s.raise e) e := by
  unfold ErrorEffect State.raise
  rw [results_of_error]

theorem loHalf_eq (v : Nat) : loHalf v = BitVec.ofNat 32 (v % 2 ^ 32) := by
  apply BitVec.eq_of_toNat_eq; simp

theorem hiHalf_eq (v : Nat) : hiHalf v = BitVec.ofNat 32 (v / 2 ^ 32) := rfl

/-- A value is left as R380 states. -/
theorem State.succeedValue_effect (s : State) {v : Nat} (h : v < 2 ^ 64) : ValueEffect s (s.succeedValue v) v := by
  refine ⟨h, ?_⟩
  rw [← loHalf_eq, ← hiHalf_eq]; rfl

/-- Output bytes are left as R380 and R63 state. -/
theorem State.succeedOutput_frame (s : State) {out : List Byte} (h : out.length < 2 ^ 64) :
    OutputFrame s (s.succeedOutput out) out.length where
  fits := h
  results := by rw [← loHalf_eq, ← hiHalf_eq]; rfl
  frame := ⟨rfl, rfl, rfl, rfl, rfl⟩
  outside := fun _ ha => Memory.read_writeBytes_of_outside ha

/-- Which of the three ends a completed command came to can be read from `STATUS`. -/
theorem State.complete_status_ok {s : State} {r : CmdResult} (h : (s.complete r).regs.results.status = 1) :
    (∃ v, r = .value v) ∨ ∃ out, r = .output out := by
  cases r with
  | error e =>
    exfalso
    refine errorWord_ne_statusOk e ?_
    rw [← statusError_eq_errorWord]
    exact h
  | value v => exact .inl ⟨v, rfl⟩
  | output out => exact .inr ⟨out, rfl⟩

/-- `OUT_LEN` after an output is its length. -/
theorem State.succeedOutput_outLen (s : State) {out : List Byte} (h : out.length < 2 ^ 64) :
    pair (s.succeedOutput out).regs.results.outLenHi (s.succeedOutput out).regs.results.outLenLo = out.length :=
  pair_halves h

/-! ## The remap loops on memory -/

variable {s : State} {w h B L : Nat} {A : Nat → Nat → Nat}

/-- The generic `.UNSWZ` loop over a placed grid has the effect R123 states. -/
theorem unswizzle_effect (hp : (gridLayout w h B L A).Placed) (hlen : s.regs.params.srcLen = L)
    (hfit : w * h * B < 2 ^ 64) :
    UnswzEffect (gridMap w h B L A) s (s.succeedOutput (unswizzle 0 (gridLayout w h B L A) s.source)) := by
  have hl : (unswizzle 0 (gridLayout w h B L A) s.source).length = w * h * B := length_unswizzle ..
  refine ⟨?_, ?_⟩
  · have := s.succeedOutput_frame (out := unswizzle 0 (gridLayout w h B L A) s.source) (by omega)
    rwa [hl] at this
  · rintro ⟨x, y⟩ ⟨hx, hy⟩ k hk
    replace hx : x < w := hx
    replace hy : y < h := hy
    have hi := grid_index_lt hx hy
    have hpi := hp _ hi
    simp only [gridMap] at hk ⊢
    rw [gridLayout_addr hx] at hpi
    simp only [gridLayout_unit, gridLayout_swzLen] at hpi
    have hbound : (y * w + x) * B + k < w * h * B := by
      have := Nat.mul_le_mul_right B (Nat.succ_le_of_lt hi)
      rw [Nat.succ_mul] at this; omega
    rw [State.succeedOutput_mem, Memory.read_writeBytes_of_mem (by omega),
      show unlistedByte = (0 : Byte) from rfl]
    have := getD_unswizzle (0 : Byte) (gridLayout w h B L A) s.source (i := y * w + x) (k := k) hi hk
    rw [gridLayout_addr hx] at this
    rw [gridLayout_unit] at this
    rw [this, State.getD_source s (by omega)]

/-- The generic `.SWZ` loop over a placed and disjoint grid has the effect R124 states. -/
theorem swizzle_effect (hp : (gridLayout w h B L A).Placed) (ha : (gridLayout w h B L A).Apart)
    (hlen : s.regs.params.srcLen = w * h * B) (hfit : L < 2 ^ 64) :
    SwzEffect (gridMap w h B L A) s (s.succeedOutput (swizzle 0 (gridLayout w h B L A) s.source)) := by
  have hl : (swizzle 0 (gridLayout w h B L A) s.source).length = L := length_swizzle ..
  refine ⟨?_, ?_, ?_⟩
  · have := s.succeedOutput_frame (out := swizzle 0 (gridLayout w h B L A) s.source) (by omega)
    rwa [hl] at this
  · rintro ⟨x, y⟩ ⟨hx, hy⟩ k hk
    replace hx : x < w := hx
    replace hy : y < h := hy
    have hi := grid_index_lt hx hy
    have hpi := hp _ hi
    simp only [gridMap] at hk ⊢
    rw [gridLayout_addr hx] at hpi
    simp only [gridLayout_unit, gridLayout_swzLen] at hpi
    have hbound : (y * w + x) * B + k < w * h * B := by
      have := Nat.mul_le_mul_right B (Nat.succ_le_of_lt hi)
      rw [Nat.succ_mul] at this; omega
    rw [State.succeedOutput_mem, Memory.read_writeBytes_of_mem (by omega),
      show unlistedByte = (0 : Byte) from rfl]
    have := getD_swizzle (0 : Byte) (gridLayout w h B L A) s.source hp ha (i := y * w + x) (k := k) hi hk
    rw [gridLayout_addr hx] at this
    rw [gridLayout_unit] at this
    rw [this, State.getD_source s (by omega)]
  · intro j hj hun
    simp only [gridMap] at hj hun
    rw [State.succeedOutput_mem, Memory.read_writeBytes_of_mem (by omega),
      show unlistedByte = (0 : Byte) from rfl]
    refine getD_swizzle_of_uncovered 0 _ _ ?_
    rintro ⟨i, hi, hlo, hhi⟩
    have hxy := grid_column_lt hi
    refine hun (i % w, i / w) hxy (j - A (i % w) (i / w)) ?_ ?_
    · simp only [gridLayout] at hhi hlo ⊢; omega
    · simp only [gridLayout] at hlo ⊢; omega

/-! ## Peeling the checks off a remap command -/

variable {cs : List Check} {out : List Byte}

/-- One check of a remap command, as `Checked` states it. -/
theorem checked_remap {c : Check} {fails : Prop} {e : CmdError} {rest : State → Prop}
    (hf : c.fails = true ↔ fails) (he : c.err = e)
    (hrest : ¬ fails → rest (s.complete (remapResult cs out))) :
    Checked s (s.complete (remapResult (c :: cs) out)) fails e
      (rest (s.complete (remapResult (c :: cs) out))) := by
  by_cases h : c.fails = true
  · refine .inl ⟨hf.1 h, ?_⟩
    rw [remapResult_of_fails h, he]
    exact s.raise_effect e
  · refine .inr ⟨fun hc => h (hf.2 hc), ?_⟩
    rw [remapResult_of_passes h]
    exact hrest fun hc => h (hf.2 hc)

/-- One check of a command that ends with a value (ADDR or IDX), as `Checked` states it. -/
theorem checked_value {c : Check} {fails : Prop} {e : CmdError} {rest : State → Prop} {v : Nat}
    (hf : c.fails = true ↔ fails) (he : c.err = e)
    (hrest : ¬ fails → rest (s.complete (valueResult cs v))) :
    Checked s (s.complete (valueResult (c :: cs) v)) fails e (rest (s.complete (valueResult (c :: cs) v))) := by
  by_cases h : c.fails = true
  · refine .inl ⟨hf.1 h, ?_⟩
    rw [valueResult_of_fails h, he]
    exact s.raise_effect e
  · refine .inr ⟨fun hc => h (hf.2 hc), ?_⟩
    rw [valueResult_of_passes h]
    exact hrest fun hc => h (hf.2 hc)

/-- One check of an ADDR command, as `Checked` states it. -/
theorem checked_addr {c : Check} {fails : Prop} {e : CmdError} {rest : State → Prop} {d : Bool} {a : Nat}
    (hf : c.fails = true ↔ fails) (he : c.err = e)
    (hrest : ¬ fails → rest (s.complete (addrResult cs d a))) :
    Checked s (s.complete (addrResult (c :: cs) d a)) fails e (rest (s.complete (addrResult (c :: cs) d a))) :=
  checked_value (cs := cs ++ addrChecks d a) hf he hrest

/-- The end of an ADDR command once the family's checks pass (R125). -/
theorem addrOutcome_addrResult {d : Bool} {a : Nat} {inDomain : Prop} (hd : d = true ↔ inDomain) :
    AddrOutcome s (s.complete (addrResult [] d a)) inDomain a := by
  unfold AddrOutcome
  rcases addrResult_cases [] d a with ⟨e, he, -⟩ | ⟨-, h, hr⟩ | ⟨-, h, ha, hr⟩ | ⟨-, h, ha, hr⟩
  · cases he
  · rw [hr]
    exact .inl ⟨fun hi => absurd (hd.2 hi) (by simp [h]), s.raise_effect _⟩
  · rw [hr]
    exact .inr ⟨fun hi => hi (hd.1 h), .inl ⟨ha, s.raise_effect _⟩⟩
  · rw [hr]
    exact .inr ⟨fun hi => hi (hd.1 h), .inr ⟨fun hge => absurd hge (by omega), s.succeedValue_effect ha⟩⟩

/-- Stage 4 of R126 as `BufferChecked` states it. -/
theorem bufferChecked_remap {srcLen outLen : Nat} {rest : State → Prop}
    (hrest : s.regs.params.srcLen = srcLen → outLen < 2 ^ 64 → s.regs.params.dstBase + outLen ≤ 2 ^ 64 →
      rest (s.complete (remapResult cs out))) :
    BufferChecked s (s.complete (remapResult (bufferChecks s.regs.params srcLen outLen ++ cs) out)) srcLen outLen
      (rest (s.complete (remapResult (bufferChecks s.regs.params srcLen outLen ++ cs) out))) := by
  unfold BufferChecked bufferChecks
  simp only [List.cons_append, List.nil_append]
  refine checked_remap (rest := fun t => Checked s t _ _ (Checked s t _ _ (Checked s t _ _ (rest t))))
    (by simp) rfl fun h1 => ?_
  refine checked_remap (rest := fun t => Checked s t _ _ (Checked s t _ _ (rest t))) (by simp) rfl fun h2 => ?_
  refine checked_remap (rest := fun t => Checked s t _ _ (rest t)) (by simp) rfl fun h3 => ?_
  refine checked_remap (rest := rest) rangesShare_eq_true rfl fun _ => ?_
  have := s.regs.params.dstBase_lt
  have hc : s.regs.params.dstCap < 2 ^ 64 := pair_lt _ _
  exact hrest (by omega) (by omega) (by omega)

end Sys2Proof.Machine
end

