-- ==== Sys2Proof/Laws/Access.lean ====
section
/-! SUPPORT. What one access of the host, one command word and one step can do. -/

namespace Sys2Proof.Machine

/-! ## Commands -/

/-- Every meaning ends in one completion of the command: no command faults or is refused (R4, R382). -/
theorem exec_completes (i : Instr) (s : State) : ∃ r, exec i s = .next (s.complete r) := by
  cases i <;> exact ⟨_, rfl⟩

/-- What a word written to `CMD` does (R91). -/
theorem runCommand_of_decode {c : Word} {i : Instr} {s : State} (h : decode c = .ok i) :
    runCommand c s = exec i s := by
  simp [runCommand, h]

theorem runCommand_of_error {c : Word} {e : DecodeError} {s : State} (h : decode c = .error e) :
    runCommand c s = .next (s.raise (decodeErrorCode e)) := by
  simp [runCommand, h]

/-- Every command word ends in one completion. -/
theorem runCommand_completes (c : Word) (s : State) : ∃ r, runCommand c s = .next (s.complete r) := by
  cases h : decode c with
  | ok i => rw [runCommand_of_decode h]; exact exec_completes i s
  | error e => exact ⟨.error (decodeErrorCode e), runCommand_of_error h⟩

/-! ## Register accesses -/

/-- `CMD` is at offset 0 and nowhere else (R24). -/
theorem regAt_eq_cmd {offset : Nat} : regAt offset = some .cmd ↔ offset = 0 := by
  constructor
  · intro h
    by_contra hne
    have hmem : ∀ (l : List (Nat × Reg)), (∀ e ∈ l, e.2 = .cmd → e.1 = 0) → l.lookup offset ≠ some .cmd := by
      intro l
      induction l with
      | nil => simp
      | cons e l ih =>
        intro hl hlk
        obtain ⟨o, r⟩ := e
        rw [List.lookup_cons] at hlk
        split at hlk
        · rename_i heq
          have h0 := hl (o, r) (by simp) (Option.some.inj hlk)
          simp at heq h0
          omega
        · exact ih (fun e he => hl e (by simp [he])) hlk
    exact hmem registerMap (by decide) h
  · rintro rfl; rfl

/-- Where an access points: what it names, or the instance whose 256 bytes hold the bus address (R20). -/
theorem resolveTarget_eq_some {count k offset : Nat} {target : RegTarget}
    (h : resolveTarget count target = some (k, offset)) :
    target = .reg k offset ∨ ∃ a, target = .bus a ∧ k < count ∧ Config.tseBase k ≤ a ∧
      a < Config.tseBase k + 256 ∧ offset = a - Config.tseBase k := by
  cases target with
  | reg k' o =>
    simp only [resolveTarget, Option.some.injEq, Prod.mk.injEq] at h
    exact .inl (by rw [h.1, h.2])
  | bus a =>
    obtain ⟨j, hj, hf⟩ := List.exists_of_findSome?_eq_some h
    split at hf
    · rename_i hin
      simp only [Option.some.injEq, Prod.mk.injEq] at hf
      obtain ⟨rfl, rfl⟩ := hf
      exact .inr ⟨a, rfl, List.mem_range.1 hj, hin.1, hin.2, rfl⟩
    · cases hf

/-- A bus address reaches the instance whose register space holds it, where register spaces do not overlap (R20, D3). -/
theorem resolveTarget_bus {count k offset : Nat} (h : Config.BasesApartBelow count) (hk : k < count)
    (ho : offset < 256) : resolveTarget count (.bus (Config.tseBase k + offset)) = some (k, offset) := by
  cases hr : resolveTarget count (.bus (Config.tseBase k + offset)) with
  | none =>
    have := List.findSome?_eq_none_iff.1 hr k (List.mem_range.2 hk)
    rw [if_pos (by omega)] at this
    cases this
  | some e =>
    obtain ⟨j, o⟩ := e
    obtain hc | ⟨a, ha, hj, h1, h2, rfl⟩ := resolveTarget_eq_some hr
    · cases hc
    · obtain rfl := RegTarget.bus.inj ha
      obtain rfl : j = k := by
        by_contra hne
        have := h j k hj hk hne
        omega
      rw [Nat.add_sub_cancel_left]

/-- A bus address in no register space reaches nothing. -/
theorem resolveTarget_bus_eq_none {count a : Nat}
    (h : ∀ j, j < count → ¬ (Config.tseBase j ≤ a ∧ a < Config.tseBase j + 256)) :
    resolveTarget count (.bus a) = none :=
  List.findSome?_eq_none_iff.2 fun j hj => if_neg (h j (List.mem_range.1 hj))

/-- A register access whose target resolves to nothing, or to an instance that does not exist, faults (log entry 10). -/
theorem registerAccess_of_unresolved {target : RegTarget} {s : State}
    (h : resolveTarget s.instanceCount target = none) (act : Nat → State → Host.Outcome State Fault Refusal) :
    registerAccess 4 target s act = .fault .noSuchInstance := by
  simp [registerAccess, h]

theorem registerAccess_of_no_instance {s : State} {k : Nat} (h : s.select k = none) (offset : Nat)
    (act : Nat → State → Host.Outcome State Fault Refusal) :
    registerAccess 4 (.reg k offset) s act = .fault .noSuchInstance := by
  simp [registerAccess, resolveTarget, h]

/-- A register access is one to whatever its target resolves to. -/
theorem registerAccess_congr {target target' : RegTarget} {s : State}
    (h : resolveTarget s.instanceCount target = resolveTarget s.instanceCount target') (bytes : Nat)
    (act : Nat → State → Host.Outcome State Fault Refusal) :
    registerAccess bytes target s act = registerAccess bytes target' s act := by
  simp only [registerAccess, h]

/-- A register access that names instance `k` is one to the addressed instance, where `k` is addressed. -/
theorem registerAccess_select {s s' : State} {k : Nat} (hs : s.selected ≤ s.others.length) (h : s.select k = some s')
    (bytes offset : Nat) (act : Nat → State → Host.Outcome State Fault Refusal) :
    registerAccess bytes (.reg k offset) s act = registerAccess bytes (.reg s'.selected offset) s' act := by
  obtain ⟨rfl, -⟩ := State.select_spec hs h
  simp only [registerAccess, resolveTarget, h, State.select_self]

/-- A register access of the one defined width, to an instance that exists, at a defined offset, does what it asks for. -/
theorem registerAccess_of_wf {target : RegTarget} {s s' : State} {k offset : Nat}
    {act : Nat → State → Host.Outcome State Fault Refusal}
    (ht : resolveTarget s.instanceCount target = some (k, offset)) (hs : s.select k = some s')
    (ha : offset % 4 = 0) (hr : offset < 256) : registerAccess 4 target s act = act offset s' := by
  have hr' : ¬ 256 ≤ offset := by omega
  simp [registerAccess, ht, hs, ha, hr']

theorem registerAccess_selected {s : State} {offset : Nat} {act : Nat → State → Host.Outcome State Fault Refusal}
    (ha : offset % 4 = 0) (hr : offset < 256) :
    registerAccess 4 (.reg s.selected offset) s act = act offset s :=
  registerAccess_of_wf rfl s.select_self ha hr

/-- Everything a register access that goes on has passed (R61, R35). -/
theorem registerAccess_eq_next {bytes : Nat} {target : RegTarget} {s t : State}
    {act : Nat → State → Host.Outcome State Fault Refusal} (h : registerAccess bytes target s act = .next t) :
    bytes = 4 ∧ ∃ k offset s', resolveTarget s.instanceCount target = some (k, offset) ∧ s.select k = some s' ∧
      offset % 4 = 0 ∧ offset < 256 ∧ act offset s' = .next t := by
  unfold registerAccess at h
  split at h
  · cases h
  · rename_i hb
    split at h
    · cases h
    · rename_i k offset ht
      split at h
      · cases h
      · rename_i s' hs
        split at h
        · cases h
        · split at h
          · cases h
          · exact ⟨by omega, k, offset, s', ht, hs, by omega, by omega, h⟩

/-- A write to `CMD` runs a command; any other write stores the value (R25, R34). -/
theorem writeRegister_cmd (v : Word) (s : State) : writeRegister v 0 s = runCommand v s := rfl

theorem writeRegister_of_ne {offset : Nat} (v : Word) (s : State) (h : offset ≠ 0) :
    writeRegister v offset s = .next { s with regs := s.regs.writeOffset offset v } := by
  have hne : regAt offset ≠ some .cmd := fun hc => h (regAt_eq_cmd.1 hc)
  unfold writeRegister
  split
  · exact absurd ‹_› hne
  · rfl

/-! ## Steps -/

/-- With nothing to come, nothing happens. -/
theorem step_idle {s : State} (h : s.pending = []) : step s = .next s := by
  simp [step, h]

/-- A step is the host's next access. -/
theorem step_access {s : State} {a : HostAccess} {rest : List HostAccess} (h : s.pending = a :: rest) :
    step s = hostAccess a (s.taking rest) := by
  simp [step, h]

/-! ## `withFetchWord` -/

variable (s : State) (nbits w : Nat)

@[simp] theorem State.withFetchWord_regs : (s.withFetchWord nbits w).regs = s.regs := rfl
@[simp] theorem State.withFetchWord_selected : (s.withFetchWord nbits w).selected = s.selected := rfl
@[simp] theorem State.withFetchWord_others : (s.withFetchWord nbits w).others = s.others := rfl
@[simp] theorem State.withFetchWord_mem : (s.withFetchWord nbits w).mem = s.mem := rfl
@[simp] theorem State.withFetchWord_answer : (s.withFetchWord nbits w).answer = s.answer := rfl
@[simp] theorem State.withFetchWord_pending : (s.withFetchWord nbits w).pending =
    .regWrite 4 (.reg s.selected 0) (BitVec.ofNat 32 (w % 2 ^ nbits)) :: s.pending := rfl

end Sys2Proof.Machine
end

