-- ==== Sys2Proof/Laws/PerInstr.lean ====
section
/-! SUPPORT. Facts about every instruction as syntax, one lemma per constructor. -/

namespace Sys2Proof.Laws

/-- R90 to R94: the fields of a command's word are zero reserved bits, the remapper's operation code and the function's
code, and the map of R94 gives that remapper and function back to the command. -/
def EncodedFields.Statement (i : Instr) : Prop :=
  wordReserved (encode i) = 0 ∧ wordOpc (encode i) = i.remapper.code ∧ wordFn (encode i) = i.fn.code ∧
    commandOf i.remapper i.fn = some i

theorem EncodedFields.mortonUnswz : EncodedFields.Statement .mortonUnswz := ⟨rfl, rfl, rfl, rfl⟩
theorem EncodedFields.mortonSwz : EncodedFields.Statement .mortonSwz := ⟨rfl, rfl, rfl, rfl⟩
theorem EncodedFields.mortonAddr : EncodedFields.Statement .mortonAddr := ⟨rfl, rfl, rfl, rfl⟩
theorem EncodedFields.mortonIdx : EncodedFields.Statement .mortonIdx := ⟨rfl, rfl, rfl, rfl⟩
theorem EncodedFields.mortonRUnswz : EncodedFields.Statement .mortonRUnswz := ⟨rfl, rfl, rfl, rfl⟩
theorem EncodedFields.mortonRSwz : EncodedFields.Statement .mortonRSwz := ⟨rfl, rfl, rfl, rfl⟩
theorem EncodedFields.mortonRAddr : EncodedFields.Statement .mortonRAddr := ⟨rfl, rfl, rfl, rfl⟩
theorem EncodedFields.mortonRIdx : EncodedFields.Statement .mortonRIdx := ⟨rfl, rfl, rfl, rfl⟩
theorem EncodedFields.x360Unswz : EncodedFields.Statement .x360Unswz := ⟨rfl, rfl, rfl, rfl⟩
theorem EncodedFields.x360Swz : EncodedFields.Statement .x360Swz := ⟨rfl, rfl, rfl, rfl⟩
theorem EncodedFields.x360Addr : EncodedFields.Statement .x360Addr := ⟨rfl, rfl, rfl, rfl⟩
theorem EncodedFields.ps4Unswz : EncodedFields.Statement .ps4Unswz := ⟨rfl, rfl, rfl, rfl⟩
theorem EncodedFields.ps4Swz : EncodedFields.Statement .ps4Swz := ⟨rfl, rfl, rfl, rfl⟩
theorem EncodedFields.ps4Addr : EncodedFields.Statement .ps4Addr := ⟨rfl, rfl, rfl, rfl⟩
theorem EncodedFields.ps5Unswz : EncodedFields.Statement .ps5Unswz := ⟨rfl, rfl, rfl, rfl⟩
theorem EncodedFields.ps5Swz : EncodedFields.Statement .ps5Swz := ⟨rfl, rfl, rfl, rfl⟩
theorem EncodedFields.ps5Addr : EncodedFields.Statement .ps5Addr := ⟨rfl, rfl, rfl, rfl⟩
theorem EncodedFields.blkUnswz : EncodedFields.Statement .blkUnswz := ⟨rfl, rfl, rfl, rfl⟩
theorem EncodedFields.blkSwz : EncodedFields.Statement .blkSwz := ⟨rfl, rfl, rfl, rfl⟩
theorem EncodedFields.blkAddr : EncodedFields.Statement .blkAddr := ⟨rfl, rfl, rfl, rfl⟩
theorem EncodedFields.n3dsUnswz : EncodedFields.Statement .n3dsUnswz := ⟨rfl, rfl, rfl, rfl⟩
theorem EncodedFields.n3dsSwz : EncodedFields.Statement .n3dsSwz := ⟨rfl, rfl, rfl, rfl⟩
theorem EncodedFields.n3dsAddr : EncodedFields.Statement .n3dsAddr := ⟨rfl, rfl, rfl, rfl⟩
theorem EncodedFields.pspUnswz : EncodedFields.Statement .pspUnswz := ⟨rfl, rfl, rfl, rfl⟩
theorem EncodedFields.pspSwz : EncodedFields.Statement .pspSwz := ⟨rfl, rfl, rfl, rfl⟩
theorem EncodedFields.pspAddr : EncodedFields.Statement .pspAddr := ⟨rfl, rfl, rfl, rfl⟩
theorem EncodedFields.ps28Unswz : EncodedFields.Statement .ps28Unswz := ⟨rfl, rfl, rfl, rfl⟩
theorem EncodedFields.ps28Swz : EncodedFields.Statement .ps28Swz := ⟨rfl, rfl, rfl, rfl⟩
theorem EncodedFields.ps28Addr : EncodedFields.Statement .ps28Addr := ⟨rfl, rfl, rfl, rfl⟩
theorem EncodedFields.ps24Unswz : EncodedFields.Statement .ps24Unswz := ⟨rfl, rfl, rfl, rfl⟩
theorem EncodedFields.ps24Swz : EncodedFields.Statement .ps24Swz := ⟨rfl, rfl, rfl, rfl⟩
theorem EncodedFields.ps24Addr : EncodedFields.Statement .ps24Addr := ⟨rfl, rfl, rfl, rfl⟩
theorem EncodedFields.ps2PalUnswz : EncodedFields.Statement .ps2PalUnswz := ⟨rfl, rfl, rfl, rfl⟩
theorem EncodedFields.ps2PalSwz : EncodedFields.Statement .ps2PalSwz := ⟨rfl, rfl, rfl, rfl⟩
theorem EncodedFields.ps2PalAddr : EncodedFields.Statement .ps2PalAddr := ⟨rfl, rfl, rfl, rfl⟩
theorem EncodedFields.nswUnswz : EncodedFields.Statement .nswUnswz := ⟨rfl, rfl, rfl, rfl⟩
theorem EncodedFields.nswSwz : EncodedFields.Statement .nswSwz := ⟨rfl, rfl, rfl, rfl⟩
theorem EncodedFields.nswAddr : EncodedFields.Statement .nswAddr := ⟨rfl, rfl, rfl, rfl⟩
theorem EncodedFields.wiiuUnswz : EncodedFields.Statement .wiiuUnswz := ⟨rfl, rfl, rfl, rfl⟩
theorem EncodedFields.wiiuSwz : EncodedFields.Statement .wiiuSwz := ⟨rfl, rfl, rfl, rfl⟩
theorem EncodedFields.wiiuAddr : EncodedFields.Statement .wiiuAddr := ⟨rfl, rfl, rfl, rfl⟩

end Sys2Proof.Laws
end

