-- ==== Sys2Proof/Tests/Slice0.lean ====
section
/-! SUPPORT. Tests of one step each on small states, and for every statement with hypotheses a state that meets them.
Expected values are those of spec/95_test_vectors.md (the vector is named) or worked by hand from the rule named; none is
the model's own answer. `M13`, `V9` and the like are vectors of that file. -/

namespace Sys2Proof.Tests

open Sys2Proof Sys2Proof.Machine

/-! ## Well-formedness refuses each ill-formed access (R61, R35) -/

theorem test_wellFormed_refuses_width :
    (HostAccess.regRead 2 (.reg 0 0x020)).wellFormed = false ∧
      (HostAccess.regWrite 8 (.reg 0 0x020) 0).wellFormed = false := by decide

theorem test_wellFormed_refuses_unaligned :
    (HostAccess.regRead 4 (.reg 0 0x022)).wellFormed = false ∧
      (HostAccess.regWrite 4 (.reg 0 0x001) 0).wellFormed = false := by decide

theorem test_wellFormed_refuses_outside :
    (HostAccess.regRead 4 (.reg 0 0x100)).wellFormed = false ∧
      (HostAccess.regWrite 4 (.reg 0 0x200) 0).wellFormed = false := by decide

theorem test_wellFormed_accepts :
    (HostAccess.regWrite 4 (.reg 0 0x0FC) 0).wellFormed = true ∧ (HostAccess.regRead 4 (.bus 0x1002)).wellFormed = true ∧
      (HostAccess.memWrite 7 1).wellFormed = true ∧ Instr.mortonIdx.wellFormed = true := by decide

/-! ## Decoding: `[31:10]` reserved, `[9:8]` FN, `[7:0]` OPC, written out bit by bit (R90, R92, R93, R94) -/

/-- MORTON: OPC 0x01. -/
theorem test_decode_morton :
    decode 0b00_00000001 = .ok .mortonUnswz ∧
      decode 0b01_00000001 = .ok .mortonSwz ∧
      decode 0b10_00000001 = .ok .mortonAddr ∧
      decode 0b11_00000001 = .ok .mortonIdx := by decide

/-- MORTONR: OPC 0x02. -/
theorem test_decode_mortonR :
    decode 0b00_00000010 = .ok .mortonRUnswz ∧
      decode 0b01_00000010 = .ok .mortonRSwz ∧
      decode 0b10_00000010 = .ok .mortonRAddr ∧
      decode 0b11_00000010 = .ok .mortonRIdx := by decide

/-- X360: OPC 0x03. -/
theorem test_decode_x360 :
    decode 0b00_00000011 = .ok .x360Unswz ∧
      decode 0b01_00000011 = .ok .x360Swz ∧
      decode 0b10_00000011 = .ok .x360Addr := by decide

/-- PS4: OPC 0x04. -/
theorem test_decode_ps4 :
    decode 0b00_00000100 = .ok .ps4Unswz ∧
      decode 0b01_00000100 = .ok .ps4Swz ∧
      decode 0b10_00000100 = .ok .ps4Addr := by decide

/-- PS5: OPC 0x05. -/
theorem test_decode_ps5 :
    decode 0b00_00000101 = .ok .ps5Unswz ∧
      decode 0b01_00000101 = .ok .ps5Swz ∧
      decode 0b10_00000101 = .ok .ps5Addr := by decide

/-- BLK: OPC 0x10. -/
theorem test_decode_blk :
    decode 0b00_00010000 = .ok .blkUnswz ∧
      decode 0b01_00010000 = .ok .blkSwz ∧
      decode 0b10_00010000 = .ok .blkAddr := by decide

/-- 3DS: OPC 0x11. -/
theorem test_decode_n3ds :
    decode 0b00_00010001 = .ok .n3dsUnswz ∧
      decode 0b01_00010001 = .ok .n3dsSwz ∧
      decode 0b10_00010001 = .ok .n3dsAddr := by decide

/-- PSP: OPC 0x12. -/
theorem test_decode_psp :
    decode 0b00_00010010 = .ok .pspUnswz ∧
      decode 0b01_00010010 = .ok .pspSwz ∧
      decode 0b10_00010010 = .ok .pspAddr := by decide

/-- PS2.8: OPC 0x20. -/
theorem test_decode_ps28 :
    decode 0b00_00100000 = .ok .ps28Unswz ∧
      decode 0b01_00100000 = .ok .ps28Swz ∧
      decode 0b10_00100000 = .ok .ps28Addr := by decide

/-- PS2.4: OPC 0x21. -/
theorem test_decode_ps24 :
    decode 0b00_00100001 = .ok .ps24Unswz ∧
      decode 0b01_00100001 = .ok .ps24Swz ∧
      decode 0b10_00100001 = .ok .ps24Addr := by decide

/-- PS2.PAL: OPC 0x22. -/
theorem test_decode_ps2Pal :
    decode 0b00_00100010 = .ok .ps2PalUnswz ∧
      decode 0b01_00100010 = .ok .ps2PalSwz ∧
      decode 0b10_00100010 = .ok .ps2PalAddr := by decide

/-- NSW: OPC 0x30. -/
theorem test_decode_nsw :
    decode 0b00_00110000 = .ok .nswUnswz ∧
      decode 0b01_00110000 = .ok .nswSwz ∧
      decode 0b10_00110000 = .ok .nswAddr := by decide

/-- WIIU: OPC 0x40. -/
theorem test_decode_wiiu :
    decode 0b00_01000000 = .ok .wiiuUnswz ∧
      decode 0b01_01000000 = .ok .wiiuSwz ∧
      decode 0b10_01000000 = .ok .wiiuAddr := by decide

/-- D1 to D6, and the order of R91: the first failing step names the error. -/
theorem test_decode_rejects_by_name :
    decode 0x00000401 = .error .reservedBits ∧ decode 0x00000006 = .error .unassignedOpc ∧
      decode 0x000000FF = .error .unassignedOpc ∧ decode 0x00000303 = .error .idxUndefined ∧
      decode 0x00000340 = .error .idxUndefined ∧ decode 0x80000301 = .error .reservedBits ∧
      decode 0x00000706 = .error .reservedBits ∧ decode 0x00000306 = .error .unassignedOpc := by decide

theorem test_decodeTableWord :
    decodeTableWord 32 0x00000240 = some .wiiuAddr ∧ decodeTableWord 32 0x00000006 = none := by decide

theorem test_encode :
    encode .mortonRIdx = 0x00000302 ∧ encode .nswSwz = 0x00000130 ∧ encode .mortonUnswz = 0x00000001 := by decide

/-! ## Small states -/

/-- Parameter registers with these values, the others 0. -/
def paramsOf (l : List (ParamReg × Nat)) : Params :=
  l.foldl (fun p e => p.set e.1 (BitVec.ofNat 32 e.2)) Params.reset

/-- One instance with these parameter registers and this memory. -/
def machineOf (l : List (ParamReg × Nat)) (m : Memory) : State :=
  { regs := ⟨paramsOf l, Results.reset⟩, selected := 0, others := [], mem := m, pending := [], answer := .none }

/-- Two instances, the first addressed. -/
def twoOf (l k : List (ParamReg × Nat)) (m : Memory) : State :=
  { machineOf l m with others := [⟨paramsOf k, Results.reset⟩] }

/-- The source of the vectors of section 4 of spec/95_test_vectors.md: byte `i` holds `i mod 256`, at 0x1000. -/
def image (n : Nat) : Memory := Memory.writeBytes [] 0x1000 ((List.range n).map (BitVec.ofNat 8))

/-- Units of one pixel and `B` bytes. -/
def pixels (w h B : Nat) : List (ParamReg × Nat) :=
  [(.width, w), (.height, h), (.blockW, 1), (.blockH, 1), (.blockBytes, B)]

/-- Register values put together. -/
def regs (l : List (List (ParamReg × Nat))) : List (ParamReg × Nat) := l.flatten

/-- The buffers of those vectors. -/
def buffers (len : Nat) : List (ParamReg × Nat) :=
  [(.srcBaseLo, 0x1000), (.srcLenLo, len), (.dstBaseLo, 0x8000), (.dstCapLo, 0x100000)]

def coords (x y : Nat) : List (ParamReg × Nat) := [(.coordX, x), (.coordY, y)]

def stateAfter (o : Host.Outcome State Fault Refusal) (s : State) : State :=
  match o with
  | .next t => t
  | _ => s

/-- `STATUS`, `OUT_LEN` and `RESULT`. -/
def report (t : State) : Nat × Nat × Nat :=
  (t.regs.results.status.toNat, pair t.regs.results.outLenHi t.regs.results.outLenLo,
    pair t.regs.results.resultHi t.regs.results.resultLo)

/-- The first `n` destination bytes. -/
def written (n : Nat) (t : State) : List Nat := (t.mem.readBytes 0x8000 n).map BitVec.toNat

/-- `STATUS`, `OUT_LEN`, `RESULT` and destination bytes after a command. -/
def ran (i : Instr) (n : Nat) (s : State) : (Nat × Nat × Nat) × List Nat :=
  (report (stateAfter (exec i s) s), written n (stateAfter (exec i s) s))

/-- The same for a command whose OPEN parameter is given a value. -/
def ended (r : State → CmdResult) (n : Nat) (s : State) : (Nat × Nat × Nat) × List Nat :=
  (report (s.complete (r s)), written n (s.complete (r s)))

/-- `STATUS`, `OUT_LEN` and `RESULT` after a command in a state without memory. -/
def answers (i : Instr) (l : List (ParamReg × Nat)) : Nat × Nat × Nat :=
  report (stateAfter (exec i (machineOf l [])) (machineOf l []))

/-- The same for a command whose OPEN parameter is given a value. -/
def answersWith (r : Params → CmdResult) (l : List (ParamReg × Nat)) : Nat × Nat × Nat :=
  report ((machineOf l []).complete (r (paramsOf l)))

/-! ## Commands: MORTON and MORTONR -/

/-- V4: units move as 2-byte groups. -/
theorem test_mortonSwz :
    ran .mortonSwz 16 (machineOf (regs [pixels 4 2 2, buffers 16]) (image 16)) =
      ((1, 16, 0), [0x00, 0x01, 0x02, 0x03, 0x08, 0x09, 0x0A, 0x0B, 0x04, 0x05, 0x06, 0x07, 0x0C, 0x0D, 0x0E, 0x0F]) := by decide +kernel

/-- V2. -/
theorem test_mortonUnswz :
    ran .mortonUnswz 16 (machineOf (regs [pixels 4 4 1, buffers 16]) (image 16)) =
      ((1, 16, 0), [0x00, 0x01, 0x04, 0x05, 0x02, 0x03, 0x06, 0x07, 0x08, 0x09, 0x0C, 0x0D, 0x0A, 0x0B, 0x0E, 0x0F]) := by decide +kernel

/-- V3. -/
theorem test_mortonRSwz :
    ran .mortonRSwz 16 (machineOf (regs [pixels 4 4 1, buffers 16]) (image 16)) =
      ((1, 16, 0), [0x00, 0x04, 0x01, 0x05, 0x08, 0x0C, 0x09, 0x0D, 0x02, 0x06, 0x03, 0x07, 0x0A, 0x0E, 0x0B, 0x0F]) := by decide +kernel

/-- By hand: the inverse of the permutation of V3 (R132). -/
theorem test_mortonRUnswz :
    ran .mortonRUnswz 16 (machineOf (regs [pixels 4 4 1, buffers 16]) (image 16)) =
      ((1, 16, 0), [0x00, 0x02, 0x08, 0x0A, 0x01, 0x03, 0x09, 0x0B, 0x04, 0x06, 0x0C, 0x0E, 0x05, 0x07, 0x0D, 0x0F]) := by decide +kernel

/-- M11, M17 (the largest result), M14, M15, M16, M18. -/
theorem test_mortonAddr :
    answers .mortonAddr (regs [pixels 16 16 1, coords 1 2]) = (1, 0, 9) ∧
      answers .mortonAddr (regs [pixels 0x80000000 0x80000000 4, coords 0x7FFFFFFF 0x7FFFFFFF]) = (1, 0, 0xFFFFFFFFFFFFFFFC) ∧
      answers .mortonAddr [(.width, 12), (.height, 12), (.blockW, 4), (.blockH, 4), (.blockBytes, 8)] = (0x413, 0, 0) ∧
      answers .mortonAddr (regs [pixels 16 16 1, coords 16 0]) = (0xA13, 0, 0) ∧
      answers .mortonAddr (regs [pixels 0x80000000 0x80000000 0xFFFFFFFF, coords 0x7FFFFFFF 0x7FFFFFFF]) = (0xB13, 0, 0) ∧
      answers .mortonAddr (pixels 16 16 0) = (0x213, 0, 0) := by decide +kernel

/-- M12, and M13 by its rule with y first: ILVR(5, 3) over 16 x 16 is 39, and 39 * 8 = 312. -/
theorem test_mortonRAddr :
    answers .mortonRAddr (regs [pixels 16 16 1, coords 2 1]) = (1, 0, 9) ∧
      answers .mortonRAddr (regs [[(.width, 64), (.height, 64), (.blockW, 4), (.blockH, 4), (.blockBytes, 8)], coords 5 3]) =
        (1, 0, 312) := by decide +kernel

/-- M2, M5, M7, M8. -/
theorem test_mortonIdx :
    answers .mortonIdx [(.width, 16), (.height, 16), (.coordT, 9)] = (1, 0, 33) ∧
      answers .mortonIdx [(.width, 256), (.height, 64), (.coordT, 12345)] = (1, 0, 1733) ∧
      answers .mortonIdx [(.width, 3), (.height, 3), (.coordT, 4)] = (1, 0, 0) ∧
      answers .mortonIdx [(.width, 16), (.height, 16), (.coordT, 256)] = (0xA13, 0, 0) := by decide +kernel

/-- M4, M6, M10. -/
theorem test_mortonRIdx :
    answers .mortonRIdx [(.width, 16), (.height, 16), (.coordT, 100)] = (1, 0, 164) ∧
      answers .mortonRIdx [(.width, 256), (.height, 64), (.coordT, 12345)] = (1, 0, 1478) ∧
      answers .mortonRIdx [(.width, 0), (.height, 16)] = (0x113, 0, 0) := by decide +kernel

/-- F1, F2, F3, F4, F6 and F9: the buffer checks in their order, and no destination byte written. -/
theorem test_mortonSwz_buffers :
    let run := fun l => ran .mortonSwz 1 (machineOf (regs [pixels 4 4 1, l]) (image 16))
    run [(.srcBaseLo, 0x1000), (.srcLenLo, 15), (.dstBaseLo, 0x8000), (.dstCapLo, 16)] = ((0x1013, 0, 0), [0]) ∧
      run [(.srcBaseLo, 0x1000), (.srcLenLo, 16), (.dstBaseLo, 0x8000), (.dstCapLo, 15)] = ((0x1113, 0, 0), [0]) ∧
      run [(.srcBaseLo, 0xFFFFFFF8), (.srcBaseHi, 0xFFFFFFFF), (.srcLenLo, 16), (.dstBaseLo, 0x8000), (.dstCapLo, 16)] =
        ((0x1213, 0, 0), [0]) ∧
      run [(.srcBaseLo, 0x1000), (.srcLenLo, 16), (.dstBaseLo, 0xFFFFFFF1), (.dstBaseHi, 0xFFFFFFFF), (.dstCapLo, 16)] =
        ((0x1213, 0, 0), [0]) ∧
      run [(.srcBaseLo, 0x1000), (.srcLenLo, 16), (.dstBaseLo, 0x100F), (.dstCapLo, 16)] = ((0x1313, 0, 0), [0]) ∧
      run [(.srcBaseLo, 0x1000), (.srcLenLo, 15), (.dstBaseLo, 0x1000)] = ((0x1013, 0, 0), [0]) := by decide +kernel

/-! ## Commands: X360 -/

/-- X2, X4, X5, X6, X7, and X9: ADDR does not read SWAP_UNIT. -/
theorem test_x360Addr :
    answers .x360Addr (regs [[(.width, 1024), (.height, 1024), (.blockW, 4), (.blockH, 4), (.blockBytes, 8)], coords 255 255]) =
        (1, 0, 524152) ∧
      answers .x360Addr (regs [pixels 32 128 1, coords 0 31]) = (1, 0, 2488) ∧
      answers .x360Addr (pixels 32 32 1) = (0x513, 0, 0) ∧ answers .x360Addr (pixels 48 32 4) = (0x513, 0, 0) ∧
      answers .x360Addr (pixels 32 32 3) = (0x1323, 0, 0) ∧
      answers .x360Addr (regs [pixels 32 32 4, [(.swapUnit, 3)]]) = (1, 0, 0) := by decide +kernel

/-- A source whose bytes are 0 but for linear unit (0, 1) of a 32 x 32 image of 4-byte units: the bytes 0x80 to 0x83. -/
def oneUnit : Memory := Memory.writeBytes [] (0x1000 + 128) [0x80, 0x81, 0x82, 0x83]

/-- An X360 state of such an image. -/
def tiled (swapUnit : Nat) (m : Memory) : State :=
  machineOf (regs [pixels 32 32 4, [(.swapUnit, swapUnit)], buffers 4096]) m

/-- V18 at unit (0, 1), which swizzled unit 4 holds (R229): its bytes exchanged in pairs; the command completes; X8. -/
theorem test_x360Swz :
    (swapBytes 0 (swizzle 0 (x360Layout (tiled 0 oneUnit).regs.params) (tiled 0 oneUnit).source)).getD 16 0 = 0x81 ∧
      (stateAfter (exec .x360Swz (tiled 0 oneUnit)) (tiled 0 oneUnit)).regs.results.status = 1 ∧
      answers .x360Swz (regs [pixels 32 32 4, [(.swapUnit, 3)]]) = (0x1223, 0, 0) := by decide +kernel

/-- The same unit where the tiled image keeps it: swizzled unit 4 (R229). -/
def oneTiledUnit : Memory := Memory.writeBytes [] (0x1000 + 16) [0x80, 0x81, 0x82, 0x83]

/-- The inverse with SWAP_UNIT 2: the unit goes back to linear byte 128, its bytes reversed; the command completes. -/
theorem test_x360Unswz :
    (unswizzle 0 (x360Layout (tiled 2 oneTiledUnit).regs.params) (swapBytes 2 (tiled 2 oneTiledUnit).source)).getD 128 0 =
        0x83 ∧
      (stateAfter (exec .x360Unswz (tiled 2 oneTiledUnit)) (tiled 2 oneTiledUnit)).regs.results.status = 1 := by decide +kernel

/-- V17, V18, V19: no swap, pairs, groups of four (R222). -/
theorem test_swapBytes :
    swapBytes 1 [0, 1, 2, 3, 4, 5, 6, 7] = [0, 1, 2, 3, 4, 5, 6, 7] ∧
      swapBytes 0 [0, 1, 2, 3, 4, 5, 6, 7] = [1, 0, 3, 2, 5, 4, 7, 6] ∧
      swapBytes 2 [0, 1, 2, 3, 4, 5, 6, 7] = [3, 2, 1, 0, 7, 6, 5, 4] := by decide +kernel

/-! ## Commands: PS4 and PS5 -/

/-- V6: an 8 x 2 edge tile, then a 1 x 2 edge tile. -/
theorem test_ps4Swz :
    ran .ps4Swz 18 (machineOf (regs [pixels 9 2 1, buffers 18]) (image 18)) =
      ((1, 18, 0), [0x00, 0x01, 0x02, 0x03, 0x04, 0x05, 0x06, 0x07, 0x09, 0x0A, 0x0B, 0x0C, 0x0D, 0x0E, 0x0F, 0x10, 0x08, 0x11]) := by decide +kernel

/-- By hand: the inverse of the permutation of V6 (R132). -/
theorem test_ps4Unswz :
    ran .ps4Unswz 18 (machineOf (regs [pixels 9 2 1, buffers 18]) (image 18)) =
      ((1, 18, 0), [0x00, 0x01, 0x02, 0x03, 0x04, 0x05, 0x06, 0x07, 0x10, 0x08, 0x09, 0x0A, 0x0B, 0x0C, 0x0D, 0x0E, 0x0F, 0x11]) := by decide +kernel

/-- Q1, Q2, Q3, Q4. -/
theorem test_ps4Addr :
    answers .ps4Addr (regs [pixels 9 7 1, coords 3 2]) = (1, 0, 19) ∧
      answers .ps4Addr (regs [pixels 16 9 1, coords 15 8]) = (1, 0, 143) ∧
      answers .ps4Addr (regs [pixels 16 9 1, coords 9 1]) = (1, 0, 67) ∧
      answers .ps4Addr (regs [[(.width, 40), (.height, 36), (.blockW, 4), (.blockH, 4), (.blockBytes, 16)], coords 9 8]) =
        (1, 0, 1424) := by decide +kernel

/-- By hand from R231 with the super-tile (16, 16): the 16 x 2 edge tile holds both rows of its columns, then column 16. -/
theorem test_ps5Swz :
    ended (ps5Swz (some .tile16x16)) 34 (machineOf (regs [pixels 17 2 1, buffers 34]) (image 34)) =
      ((1, 34, 0), [0x00, 0x01, 0x02, 0x03, 0x04, 0x05, 0x06, 0x07, 0x08, 0x09, 0x0A, 0x0B, 0x0C, 0x0D, 0x0E, 0x0F, 0x11, 0x12, 0x13, 0x14, 0x15, 0x16, 0x17, 0x18, 0x19, 0x1A, 0x1B, 0x1C, 0x1D, 0x1E, 0x1F, 0x20, 0x10, 0x21]) := by decide +kernel

/-- By hand: the inverse of that permutation (R132). -/
theorem test_ps5Unswz :
    ended (ps5Unswz (some .tile16x16)) 34 (machineOf (regs [pixels 17 2 1, buffers 34]) (image 34)) =
      ((1, 34, 0), [0x00, 0x01, 0x02, 0x03, 0x04, 0x05, 0x06, 0x07, 0x08, 0x09, 0x0A, 0x0B, 0x0C, 0x0D, 0x0E, 0x0F, 0x20, 0x10, 0x11, 0x12, 0x13, 0x14, 0x15, 0x16, 0x17, 0x18, 0x19, 0x1A, 0x1B, 0x1C, 0x1D, 0x1E, 0x1F, 0x21]) := by decide +kernel

/-- Q5, Q6, Q7. -/
theorem test_ps5Addr :
    answersWith (ps5AddrResult (some .tile32x16)) (regs [pixels 40 33 1, coords 33 1]) = (1, 0, 521) ∧
      answersWith (ps5AddrResult (some .tile16x16)) (regs [pixels 40 33 1, coords 17 0]) = (1, 0, 257) ∧
      answersWith (ps5AddrResult none) (pixels 40 33 4) = (0x2323, 0, 0) := by decide +kernel

/-! ## Commands: BLK, 3DS and PSP -/

/-- V9: padded to 4 x 4; the padding bytes are 0. -/
theorem test_blkSwz :
    ran .blkSwz 16 (machineOf (regs [pixels 3 3 1, [(.tileW, 2), (.tileH, 2)], buffers 9]) (image 9)) =
      ((1, 16, 0), [0x00, 0x01, 0x03, 0x04, 0x02, 0x00, 0x05, 0x00, 0x06, 0x07, 0x00, 0x00, 0x08, 0x00, 0x00, 0x00]) := by decide +kernel

/-- V10: the padding positions are dropped. -/
theorem test_blkUnswz :
    ran .blkUnswz 9 (machineOf (regs [pixels 3 3 1, [(.tileW, 2), (.tileH, 2)], buffers 16]) (image 16)) =
      ((1, 9, 0), [0x00, 0x01, 0x04, 0x02, 0x03, 0x06, 0x08, 0x09, 0x0C]) := by decide +kernel

/-- B1, B3, B4, B2. -/
theorem test_blkAddr :
    answers .blkAddr (regs [pixels 10 5 1, [(.tileW, 8), (.tileH, 4)], coords 9 4]) = (1, 0, 97) ∧
      answers .blkAddr (regs [[(.width, 16), (.height, 16), (.blockW, 4), (.blockH, 4), (.blockBytes, 8), (.tileW, 2), (.tileH, 2)], coords 3 1]) = (1, 0, 56) ∧
      answers .blkAddr (regs [[(.width, 16), (.height, 8), (.blockW, 2), (.blockH, 1), (.blockBytes, 1), (.tileW, 4), (.tileH, 8)], coords 4 0]) = (1, 0, 32) ∧
      answers .blkAddr (regs [pixels 10 5 1, [(.tileH, 4)]]) = (0x313, 0, 0) := by decide +kernel

/-- V11: one 8 x 8 Morton tile; the first 32 of 64 bytes. -/
theorem test_n3dsSwz :
    ran .n3dsSwz 32 (machineOf (regs [pixels 8 8 1, buffers 64]) (image 64)) =
      ((1, 64, 0), [0x00, 0x01, 0x08, 0x09, 0x02, 0x03, 0x0A, 0x0B, 0x10, 0x11, 0x18, 0x19, 0x12, 0x13, 0x1A, 0x1B, 0x04, 0x05, 0x0C, 0x0D, 0x06, 0x07, 0x0E, 0x0F, 0x14, 0x15, 0x1C, 0x1D, 0x16, 0x17, 0x1E, 0x1F]) := by decide +kernel

/-- By hand: the inverse of the permutation of V11 (R132), row 0 and row 1. -/
theorem test_n3dsUnswz :
    ran .n3dsUnswz 16 (machineOf (regs [pixels 8 8 1, buffers 64]) (image 64)) =
      ((1, 64, 0), [0x00, 0x01, 0x04, 0x05, 0x10, 0x11, 0x14, 0x15, 0x02, 0x03, 0x06, 0x07, 0x12, 0x13, 0x16, 0x17]) := by decide +kernel

/-- T1, T2, T3. -/
theorem test_n3dsAddr :
    answers .n3dsAddr (regs [pixels 16 16 1, coords 9 2]) = (1, 0, 73) ∧
      answers .n3dsAddr (regs [pixels 16 16 4, coords 9 2]) = (1, 0, 292) ∧
      answers .n3dsAddr (pixels 12 16 1) = (0x513, 0, 0) := by decide +kernel

/-- A PSP image of 32 bytes by 8 rows, 0 but for the byte `b` at offset `o` of the source. -/
def oneByte (o : Nat) (b : Byte) : State :=
  machineOf (regs [[(.width, 32), (.height, 8), (.bpp, 8)], buffers 256]) (Memory.writeBytes [] (0x1000 + o) [b])

/-- V12: byte 32, which is column 0 of row 1, is kept at byte 16 of block 0. -/
theorem test_pspSwz :
    (written 17 (stateAfter (exec .pspSwz (oneByte 32 7)) (oneByte 32 7))).drop 15 = [0, 7] := by decide +kernel

/-- By hand: byte column 16 of row 0 is the first byte of block 1, 128 bytes on (R190). -/
theorem test_pspUnswz :
    (written 17 (stateAfter (exec .pspUnswz (oneByte 128 7)) (oneByte 128 7))).drop 15 = [0, 7] := by decide +kernel

/-- P1, P2, P3, P4, P5. -/
theorem test_pspAddr :
    answers .pspAddr (regs [[(.width, 512), (.height, 256), (.bpp, 32)], coords 17 9]) = (1, 0, 16529) ∧
      answers .pspAddr [(.width, 512), (.height, 256), (.bpp, 24)] = (0x1623, 0, 0) ∧
      answers .pspAddr [(.width, 16), (.height, 8), (.bpp, 4)] = (0x513, 0, 0) ∧
      answers .pspAddr (regs [[(.width, 32), (.height, 8), (.bpp, 4)], coords 15 7]) = (1, 0, 127) ∧
      answers .pspAddr (regs [[(.width, 32), (.height, 8), (.bpp, 4)], coords 16 0]) = (0xA13, 0, 0) := by decide +kernel

/-! ## Commands: PS2.8, PS2.4 and PS2.PAL -/

/-- V13. -/
theorem test_ps28Swz :
    ran .ps28Swz 64 (machineOf (regs [[(.width, 16), (.height, 4), (.ps2SwizzleType, 1)], buffers 64]) (image 64)) =
      ((1, 64, 0), [0x00, 0x24, 0x08, 0x2C, 0x01, 0x25, 0x09, 0x2D, 0x02, 0x26, 0x0A, 0x2E, 0x03, 0x27, 0x0B, 0x2F, 0x04, 0x20, 0x0C, 0x28, 0x05, 0x21, 0x0D, 0x29, 0x06, 0x22, 0x0E, 0x2A, 0x07, 0x23, 0x0F, 0x2B, 0x10, 0x34, 0x18, 0x3C, 0x11, 0x35, 0x19, 0x3D, 0x12, 0x36, 0x1A, 0x3E, 0x13, 0x37, 0x1B, 0x3F, 0x14, 0x30, 0x1C, 0x38, 0x15, 0x31, 0x1D, 0x39, 0x16, 0x32, 0x1E, 0x3A, 0x17, 0x33, 0x1F, 0x3B]) := by decide +kernel

/-- By hand: the inverse of the permutation of V13 (R132). -/
theorem test_ps28Unswz :
    ran .ps28Unswz 64 (machineOf (regs [[(.width, 16), (.height, 4), (.ps2SwizzleType, 1)], buffers 64]) (image 64)) =
      ((1, 64, 0), [0x00, 0x04, 0x08, 0x0C, 0x10, 0x14, 0x18, 0x1C, 0x02, 0x06, 0x0A, 0x0E, 0x12, 0x16, 0x1A, 0x1E, 0x20, 0x24, 0x28, 0x2C, 0x30, 0x34, 0x38, 0x3C, 0x22, 0x26, 0x2A, 0x2E, 0x32, 0x36, 0x3A, 0x3E, 0x11, 0x15, 0x19, 0x1D, 0x01, 0x05, 0x09, 0x0D, 0x13, 0x17, 0x1B, 0x1F, 0x03, 0x07, 0x0B, 0x0F, 0x31, 0x35, 0x39, 0x3D, 0x21, 0x25, 0x29, 0x2D, 0x33, 0x37, 0x3B, 0x3F, 0x23, 0x27, 0x2B, 0x2F]) := by decide +kernel

/-- S1, S2, S3, S4. -/
theorem test_ps28Addr :
    answers .ps28Addr (regs [[(.width, 256), (.height, 128), (.ps2SwizzleType, 1)], coords 100 50]) = (1, 0, 12481) ∧
      answers .ps28Addr (regs [[(.width, 256), (.height, 128), (.ps2SwizzleType, 1)], coords 0 4]) = (1, 0, 1040) ∧
      answers .ps28Addr [(.width, 256), (.height, 128), (.ps2SwizzleType, 2)] = (0x1023, 0, 0) ∧
      answers .ps28Addr [(.width, 16), (.height, 2), (.ps2SwizzleType, 1)] = (0x513, 0, 0) := by decide +kernel

/-- An instance of the OPEN functions of R272 that keeps their requirement: each row mirrored. -/
def mirrored : Ps24Functions := ⟨fun W H => W * H % 2 == 0, fun x y W _ => y * W + (W - 1 - x)⟩

/-- The faulty instance of section 3.3 of spec/95_test_vectors.md: every texel on one nibble. -/
def faulty : Ps24Functions := ⟨fun W H => W * H % 2 == 0, fun _ _ _ _ => 0⟩

/-- An instance that breaks R272: every texel on nibble `a`. -/
def constant (a : Nat) : Ps24Functions := ⟨fun W H => W * H % 2 == 0, fun _ _ _ _ => a⟩

/-- A 4 x 2 image of 4-bit texels, texel `i` holding `i` (R270: the even texel in the low bits). -/
def texels : State :=
  machineOf ([(.width, 4), (.height, 2), (.ps2SwizzleType, 1)] ++ buffers 4)
    (Memory.writeBytes [] 0x1000 [0x10, 0x32, 0x54, 0x76])

/-- By hand: each row of four texels reversed; and 3.3: the faulty instance ends in OOB 0x01 and writes nothing. -/
theorem test_ps24Swz :
    ended (ps24Swz mirrored) 4 texels = ((1, 4, 0), [0x23, 0x01, 0x67, 0x45]) ∧
      ended (ps24Swz faulty) 4 texels = ((0x133, 0, 0), [0, 0, 0, 0]) := by decide +kernel

/-- The mirror is its own inverse; the faulty instance as for `.SWZ` (R274). -/
theorem test_ps24Unswz :
    ended (ps24Unswz mirrored) 4 texels = ((1, 4, 0), [0x23, 0x01, 0x67, 0x45]) ∧
      ended (ps24Unswz faulty) 4 texels = ((0x133, 0, 0), [0, 0, 0, 0]) := by decide +kernel

/-- By hand: texel (1, 1) is nibble 4 + 2; 3.3: the faulty instance answers 0 for an ADDR; S5, S6; IG 0x0A; and at
the bounds OOB 0x01 for an index of 8 or of 2^64 - 1, IG 0x0B for 2^64 (R276, R374). -/
theorem test_ps24Addr :
    answersWith (ps24Addr mirrored) (regs [[(.width, 4), (.height, 2), (.ps2SwizzleType, 3)], coords 1 1]) = (1, 0, 6) ∧
      answersWith (ps24Addr faulty) (regs [[(.width, 4), (.height, 2), (.ps2SwizzleType, 1)], coords 3 1]) = (1, 0, 0) ∧
      answers .ps24Addr [(.width, 32), (.height, 16)] = (0x1023, 0, 0) ∧
      answers .ps24Addr [(.width, 3), (.height, 3), (.ps2SwizzleType, 1)] = (0x613, 0, 0) ∧
      answersWith (ps24Addr mirrored) (regs [[(.width, 4), (.height, 2), (.ps2SwizzleType, 2)], coords 4 0]) = (0xA13, 0, 0) ∧
      ([8, 2 ^ 64 - 1, 2 ^ 64].map fun a => answersWith (ps24Addr (constant a))
        [(.width, 4), (.height, 2), (.ps2SwizzleType, 1)]) = [(0x133, 0, 0), (0x133, 0, 0), (0xB13, 0, 0)] := by decide +kernel

/-- V14: entries 8 to 15 and 16 to 23 exchange. -/
theorem test_ps2PalSwz :
    ran .ps2PalSwz 64 (machineOf (regs [[(.palEntryBytes, 2)], buffers 64]) (image 64)) =
      ((1, 64, 0), [0x00, 0x01, 0x02, 0x03, 0x04, 0x05, 0x06, 0x07, 0x08, 0x09, 0x0A, 0x0B, 0x0C, 0x0D, 0x0E, 0x0F, 0x20, 0x21, 0x22, 0x23, 0x24, 0x25, 0x26, 0x27, 0x28, 0x29, 0x2A, 0x2B, 0x2C, 0x2D, 0x2E, 0x2F, 0x10, 0x11, 0x12, 0x13, 0x14, 0x15, 0x16, 0x17, 0x18, 0x19, 0x1A, 0x1B, 0x1C, 0x1D, 0x1E, 0x1F, 0x30, 0x31, 0x32, 0x33, 0x34, 0x35, 0x36, 0x37, 0x38, 0x39, 0x3A, 0x3B, 0x3C, 0x3D, 0x3E, 0x3F]) := by decide +kernel

/-- V15. -/
theorem test_ps2PalUnswz :
    ran .ps2PalUnswz 64 (machineOf (regs [[(.palEntryBytes, 2)], buffers 64]) (image 64)) =
      ((1, 64, 0), [0x00, 0x01, 0x02, 0x03, 0x04, 0x05, 0x06, 0x07, 0x08, 0x09, 0x0A, 0x0B, 0x0C, 0x0D, 0x0E, 0x0F, 0x20, 0x21, 0x22, 0x23, 0x24, 0x25, 0x26, 0x27, 0x28, 0x29, 0x2A, 0x2B, 0x2C, 0x2D, 0x2E, 0x2F, 0x10, 0x11, 0x12, 0x13, 0x14, 0x15, 0x16, 0x17, 0x18, 0x19, 0x1A, 0x1B, 0x1C, 0x1D, 0x1E, 0x1F, 0x30, 0x31, 0x32, 0x33, 0x34, 0x35, 0x36, 0x37, 0x38, 0x39, 0x3A, 0x3B, 0x3C, 0x3D, 0x3E, 0x3F]) := by decide +kernel

/-- S7, S8, S9, S10. -/
theorem test_ps2PalAddr :
    answers .ps2PalAddr (regs [[(.palEntryBytes, 4)], coords 9 0]) = (1, 0, 68) ∧
      answers .ps2PalAddr (regs [[(.palEntryBytes, 2)], coords 40 0]) = (1, 0, 96) ∧
      answers .ps2PalAddr (regs [[(.palEntryBytes, 4)], coords 9 1]) = (0xA13, 0, 0) ∧
      answers .ps2PalAddr [(.palEntryBytes, 3)] = (0x1123, 0, 0) := by decide +kernel

/-- F10, F11, F12: no entry, 16 entries, 31 entries. -/
theorem test_ps2PalSwz_entries :
    answers .ps2PalSwz (regs [[(.palEntryBytes, 4)], buffers 0]) = (0x713, 0, 0) ∧
      answers .ps2PalSwz (regs [[(.palEntryBytes, 4)], buffers 64]) = (0x713, 0, 0) ∧
      answers .ps2PalSwz (regs [[(.palEntryBytes, 2)], buffers 62]) = (0x713, 0, 0) := by decide +kernel

/-! ## Commands: NSW -/

/-- V16, its first 34 bytes: a 16 x 2 image in one GOB of 512 bytes, padded with zeros. -/
theorem test_nswSwz :
    ran .nswSwz 34 (machineOf (regs [pixels 16 2 1, [(.gobBlockH, 1), (.widthPad, 1), (.heightPad, 1)], buffers 32]) (image 32)) =
      ((1, 512, 0), [0x00, 0x01, 0x02, 0x03, 0x04, 0x05, 0x06, 0x07, 0x08, 0x09, 0x0A, 0x0B, 0x0C, 0x0D, 0x0E, 0x0F, 0x10, 0x11, 0x12, 0x13, 0x14, 0x15, 0x16, 0x17, 0x18, 0x19, 0x1A, 0x1B, 0x1C, 0x1D, 0x1E, 0x1F, 0x00, 0x00]) := by decide +kernel

/-- Program 5: unit (4, 0) is at byte 32 of the GOB and unit (0, 1) at byte 16. -/
theorem test_nswUnswz :
    (ran .nswUnswz 24 (machineOf (regs [pixels 5 3 4, [(.gobBlockH, 1), (.widthPad, 1), (.heightPad, 1)], buffers 512]) (image 100))) =
      ((1, 60, 0), [0x00, 0x01, 0x02, 0x03, 0x04, 0x05, 0x06, 0x07, 0x08, 0x09, 0x0A, 0x0B, 0x0C, 0x0D, 0x0E, 0x0F, 0x20, 0x21, 0x22, 0x23, 0x10, 0x11, 0x12, 0x13]) := by decide +kernel

/-- N1, N2, N3, N4, N5, N6, N7. -/
theorem test_nswAddr :
    answers .nswAddr (regs [pixels 64 64 4, [(.gobBlockH, 8), (.widthPad, 1), (.heightPad, 1)], coords 17 9]) = (1, 0, 4628) ∧
      answers .nswAddr (regs [pixels 64 64 4, [(.gobBlockH, 8), (.widthPad, 1), (.heightPad, 1)], coords 63 63]) = (1, 0, 16380) ∧
      answers .nswAddr (regs [[(.width, 256), (.height, 256), (.blockW, 4), (.blockH, 4), (.blockBytes, 8), (.gobBlockH, 16),
        (.widthPad, 1), (.heightPad, 1)], coords 63 63]) = (1, 0, 61432) ∧
      answers .nswAddr (regs [pixels 64 64 4, [(.gobBlockH, 3), (.widthPad, 1), (.heightPad, 1)]]) = (0x1523, 0, 0) ∧
      answers .nswAddr (regs [pixels 64 64 4, [(.gobBlockH, 8), (.heightPad, 1)]]) = (0x313, 0, 0) ∧
      answers .nswAddr (regs [pixels 64 64 3, [(.gobBlockH, 8), (.widthPad, 1), (.heightPad, 1)]]) = (0x1423, 0, 0) ∧
      answers .nswAddr (regs [pixels 5 3 4, [(.gobBlockH, 1), (.widthPad, 1), (.heightPad, 1)], coords 4 2]) = (1, 0, 96) := by decide +kernel

/-! ## Commands: WIIU, with the informative format table of R322 as the instance -/

/-- A 64 x 32 surface of one slice, pitch 64, in format 0x1A. -/
def surface (tm : Nat) : List (ParamReg × Nat) :=
  [(.width, 64), (.height, 32), (.wiiuFormat, 0x1A), (.wiiuTileMode, tm), (.wiiuPitch, 64), (.wiiuSurfHeight, 32),
   (.wiiuNumSlices, 1)]

/-- `WIIU.ADDR` with that table. -/
def gx2Addr (l : List (ParamReg × Nat)) : Nat × Nat × Nat :=
  answersWith (fun p => wiiuAddr (gx2Format p.hwFmt) p) l

/-- A 2 x 2 surface of 8-bit elements in rows of 4 (tile mode 0, format 1). -/
def rows4 : List (ParamReg × Nat) :=
  [(.width, 2), (.height, 2), (.wiiuFormat, 1), (.wiiuPitch, 4), (.wiiuSurfHeight, 2), (.wiiuNumSlices, 1),
   (.wiiuSurfSizeLo, 8)]

/-- By hand from R327: rows of 4 bytes, two of them used; and a surface of 5 bytes is too short (IG 0x09, R336). -/
theorem test_wiiuSwz :
    ended (fun s => wiiuSwz (gx2Format 1) s) 8 (machineOf (regs [rows4, buffers 4])
        (Memory.writeBytes [] 0x1000 [1, 2, 3, 4])) = ((1, 8, 0), [1, 2, 0, 0, 3, 4, 0, 0]) ∧
      ended (fun s => wiiuSwz (gx2Format 1) s) 1 (machineOf (regs [rows4, [(.wiiuSurfSizeLo, 5)], buffers 4])
        (Memory.writeBytes [] 0x1000 [1, 2, 3, 4])) = ((0x913, 0, 0), [0]) := by decide +kernel

/-- By hand from R327: the inverse. -/
theorem test_wiiuUnswz :
    ended (fun s => wiiuUnswz (gx2Format 1) s) 5 (machineOf (regs [rows4, buffers 8])
        (Memory.writeBytes [] 0x1000 [1, 2, 3, 4, 5, 6, 7, 8])) = ((1, 4, 0), [1, 2, 5, 6, 0]) := by decide +kernel

/-- W2, W3, W4, W5, W13, W15, W16, W17. -/
theorem test_wiiuAddr :
    gx2Addr (regs [surface 1, [(.wiiuSwizzle, 0x700)], coords 3 2]) = (1, 0, 524) ∧
      gx2Addr (regs [surface 4, coords 63 31]) = (1, 0, 6908) ∧
      gx2Addr (regs [surface 4, [(.wiiuSwizzle, 0x700)], coords 63 31]) = (1, 0, 7676) ∧
      gx2Addr (regs [surface 4, [(.wiiuFormat, 0x5A)], coords 63 31]) = (1, 0, 6908) ∧
      gx2Addr (regs [surface 4, [(.width, 256), (.height, 128), (.wiiuFormat, 0x31)], coords 63 31]) = (1, 0, 15096) ∧
      gx2Addr (regs [surface 4, [(.wiiuNumSlices, 2), (.wiiuSlice, 1)]]) = (1, 0, 8704) ∧
      gx2Addr (regs [surface 4, [(.width, 32), (.height, 16), (.wiiuPitch, 32), (.wiiuSurfHeight, 16), (.wiiuAa, 2),
        (.wiiuSample, 3)]]) = (1, 0, 6144) ∧
      gx2Addr (regs [surface 2, [(.height, 64), (.wiiuSurfHeight, 64)], coords 9 9]) = (1, 0, 2324) := by decide +kernel

/-- W6, W7, W8, W9, W10, W11, W12, W18. -/
theorem test_wiiuAddr_checks :
    gx2Addr (surface 17) = (0x2023, 0, 0) ∧ gx2Addr (regs [surface 4, [(.wiiuFormat, 0)]]) = (0x2123, 0, 0) ∧
      gx2Addr (regs [surface 4, [(.wiiuAa, 4)]]) = (0x2223, 0, 0) ∧ gx2Addr (regs [surface 2, [(.wiiuAa, 1)]]) = (0x2423, 0, 0) ∧
      gx2Addr (regs [surface 4, [(.wiiuPitch, 32)]]) = (0x813, 0, 0) ∧
      gx2Addr (regs [surface 4, [(.wiiuNumSlices, 0)]]) = (0x813, 0, 0) ∧
      gx2Addr (regs [surface 4, [(.wiiuSlice, 1)]]) = (0xA13, 0, 0) ∧
      gx2Addr (regs [surface 4, [(.width, 16), (.height, 16), (.wiiuPitch, 8), (.wiiuSurfHeight, 16)]]) = (0x513, 0, 0) := by decide +kernel

/-- The examples of R331: modes 8, 9, 14 and then 10, 11, 15, with a pitch of 1024 and one sample, for 8, 32 and 128 bpp. -/
theorem test_wiiu_bankSwappedWidth :
    let bsw := fun tm => [8, 32, 128].map fun bpp =>
      (wiiuSurface ⟨bpp, false⟩ (paramsOf [(.wiiuTileMode, tm), (.wiiuPitch, 1024)])).bankSwappedWidth 1
    [8, 9, 14].map bsw = [[512, 128, 32], [512, 128, 32], [512, 128, 32]] ∧
      [10, 11, 15].map bsw = [[256, 64, 16], [256, 64, 16], [256, 64, 16]] := by decide +kernel

/-! ## The address functions at the examples of the spec -/

/-- R229: the table, and the geometry of scenario 5. -/
theorem test_x360_examples :
    let at8 := fun B => [(0, 0), (1, 0), (7, 0), (8, 0), (0, 1), (0, 2), (31, 0), (0, 31)].map fun q => xgOff q.1 q.2 32 B
    at8 1 = [0, 1, 7, 64, 16, 8, 199, 2488] ∧ at8 2 = [0, 1, 7, 32, 8, 16, 103, 1496] ∧
      at8 4 = [0, 1, 11, 16, 4, 64, 59, 996] ∧ at8 8 = [0, 1, 37, 8, 2, 64, 61, 978] ∧
      at8 16 = [0, 2, 50, 4, 1, 64, 62, 969] ∧
      [(1, 0), (8, 0), (0, 1), (32, 0), (0, 32), (255, 255)].map (fun q => xgOff q.1 q.2 256 8) =
        [1, 8, 2, 1024, 8192, 65519] := by decide +kernel

/-- R233 and R239. -/
theorem test_tiledMorton_examples :
    [0, 1, 2, 3, 4, 5, 6, 7].map (fun x => tmAddr 8 8 8 8 1 x 0) = [0, 1, 4, 5, 16, 17, 20, 21] ∧
      [(1, 1), (7, 7), (9, 1), (0, 8), (15, 8)].map (fun q => tmAddr 8 8 16 9 1 q.1 q.2) = [3, 63, 67, 128, 143] ∧
      [(1, 1), (33, 1), (0, 16), (0, 32), (39, 32)].map (fun q => tmAddr 32 16 40 33 1 q.1 q.2) = [3, 521, 640, 1280, 1319] ∧
      [(1, 1), (17, 0), (33, 1), (0, 32), (39, 32)].map (fun q => tmAddr 16 16 40 33 1 q.1 q.2) = [3, 257, 521, 1280, 1319] ∧
      [ilv 31 15 32 16, ilv 16 0 32 16, ilv 0 8 32 16] = [511, 256, 128] := by decide +kernel

/-- R263. -/
theorem test_ps28_examples :
    [(0, 0), (1, 0), (4, 0), (8, 0), (16, 0), (0, 1), (0, 2), (0, 4), (0, 16), (100, 50), (255, 127)].map
        (fun q => ps28Offset 256 q.1 q.2) = [0, 4, 16, 2, 32, 512, 17, 1040, 4096, 12481, 32767] ∧
      (List.range 16).map (fun y => ps28Offset 16 0 y) =
        [0, 32, 17, 49, 80, 112, 65, 97, 128, 160, 145, 177, 208, 240, 193, 225] := by decide +kernel

/-- R305: 64 x 64 units of 4 bytes, and 128 x 16 units of 1 byte in blocks of 2 GOBs. -/
theorem test_nsw_examples :
    let lay := fun (w h B bh : Nat) => paramsOf (regs [pixels w h B, [(.gobBlockH, bh), (.widthPad, 1), (.heightPad, 1)]])
    [(1, 0), (4, 0), (8, 0), (16, 0), (0, 1), (0, 2), (0, 8), (17, 9), (0, 63), (63, 63)].map
        (fun q => nswAddr (lay 64 64 4 8) q.1 q.2) = [4, 32, 256, 4096, 16, 64, 512, 4628, 3792, 16380] ∧
      [(15, 0), (16, 0), (32, 0), (0, 1), (0, 2), (64, 0), (0, 8), (0, 15), (127, 15)].map
        (fun q => nswAddr (lay 128 16 1 2) q.1 q.2) = [15, 32, 256, 16, 64, 1024, 512, 720, 2047] ∧
      [(lay 64 64 4 8), (lay 128 16 1 2), (lay 4 8 16 1), (lay 5 3 4 1)].map (fun p => (nswLayout p).swzLen) =
        [16384, 2048, 512, 512] := by decide +kernel

/-- A surface of the examples of R341. -/
def sample (tm bpp P SH ns pipe bank : Nat) : Surface :=
  ⟨bpp, P, SH, tileModeOf tm, P, SH, 16, ns, pipe, bank⟩

/-- The twelve points of those examples. -/
def points : List (Nat × Nat) :=
  [(0, 0), (1, 0), (2, 0), (0, 1), (7, 7), (8, 0), (0, 8), (9, 9), (31, 15), (32, 0), (0, 16), (63, 31)]

/-- R341: micro-tiled and thin macro-tiled offsets, and the pipe and bank seeds. -/
theorem test_wiiu_thin_examples :
    let at12 := fun (g : Surface) => points.map fun q => g.addr q.1 q.2 0 0
    (at12 (sample 2 32 64 64 1 0 0)).take 8 = [0, 4, 8, 16, 252, 256, 2048, 2324] ∧
      (at12 (sample 2 8 64 64 1 0 0)).take 8 = [0, 1, 2, 16, 63, 64, 512, 593] ∧
      at12 (sample 4 32 64 32 1 0 0) = [0, 4, 8, 16, 252, 768, 256, 532, 1788, 2048, 5120, 6908] ∧
      at12 (sample 4 32 64 32 1 1 0) = [256, 260, 264, 272, 508, 512, 0, 788, 2044, 2304, 5376, 7164] ∧
      at12 (sample 4 32 64 32 1 0 1) = [512, 516, 520, 528, 764, 256, 768, 20, 1276, 2560, 5632, 6396] ∧
      at12 (sample 4 32 64 32 1 1 3) = [1792, 1796, 1800, 1808, 2044, 1024, 1536, 1300, 508, 3840, 4864, 7676] ∧
      at12 (sample 4 8 64 32 1 0 0) = [0, 1, 2, 16, 63, 768, 256, 529, 1599, 64, 1152, 767] := by decide +kernel

/-- R341: thick modes, the bank swap, several samples, and the split of samples. -/
theorem test_wiiu_thick_examples :
    [1, 4].map (fun z => (sample 3 32 64 64 1 0 0).addr 0 0 z 0) = [256, 65536] ∧
      (sample 4 32 64 32 1 0 0).addr 0 0 1 0 = 8704 ∧
      [0, 32, 64, 96, 128, 160].map (fun x => (sample 4 32 256 16 1 0 0).addr x 0 0 0) =
        [0, 2048, 4096, 6144, 8192, 10240] ∧
      [0, 32, 64, 96, 128, 160].map (fun x => (sample 8 32 256 16 1 0 0).addr x 0 0 0) =
        [0, 2048, 4096, 6144, 8704, 10752] ∧
      [0, 1, 2, 3].map (fun n => (sample 4 32 32 16 4 0 0).addr 0 0 0 n) = [0, 2048, 4096, 6144] ∧
      [0, 1, 2, 3, 4, 5, 6, 7].map (fun n => (sample 4 128 32 16 8 0 0).addr 0 0 0 n) =
        [0, 8192, 17920, 26112, 33792, 41984, 49664, 57856] ∧
      [0, 1, 2, 7, 8].map (fun z => (sample 16 32 64 32 1 0 0).addr 0 0 z 0) = [0, 2048, 4096, 14336, 65536] := by decide +kernel

/-! ## Accesses and steps -/

/-- An outcome as data that can be compared. -/
def seen (o : Host.Outcome State Fault Refusal) : State ⊕ Fault ⊕ Refusal :=
  match o with
  | .next t => .inl t
  | .fault f => .inr (.inl f)
  | .refused r => .inr (.inr r)

/-- A write to an RW register and the read of it (R34); a reserved offset (R34); `CMD` reads 0 (R25). -/
theorem test_registers :
    let s := machineOf [] []
    let t := stateAfter (hostAccess (.regWrite 4 (.reg 0 0x0C8) 0xFFFFFFFF) s) s
    t.regs.params.wiiuSurfSizeHi = 0xFFFFFFFF ∧
      seen (hostAccess (.regRead 4 (.reg 0 0x0C8)) t) = .inl { t with answer := .word 0xFFFFFFFF } ∧
      seen (hostAccess (.regWrite 4 (.reg 0 0x038) 5) s) = .inl s ∧
      seen (hostAccess (.regRead 4 (.reg 0 0x000)) s) = .inl { s with answer := .word 0 } := by decide +kernel

/-- The read-only registers ignore writes (R26 to R28), the empty palette of F10 having left 0x713 in `STATUS`. -/
theorem test_readOnly :
    let s := machineOf [(.palEntryBytes, 4)] []
    let t := stateAfter (exec .ps2PalSwz s) s
    seen (hostAccess (.regWrite 4 (.reg 0 0x004) 0) t) = .inl t ∧
      seen (hostAccess (.regRead 4 (.reg 0 0x004)) t) = .inl { t with answer := .word 0x713 } := by decide +kernel

/-- R61 and R35: each access that stops, by name. -/
theorem test_accesses_stop :
    let s := machineOf [] []
    seen (hostAccess (.regRead 2 (.reg 0 0x020)) s) = .inr (.inr .accessWidth) ∧
      seen (hostAccess (.regWrite 4 (.reg 0 0x022) 1) s) = .inr (.inr .accessAlignment) ∧
      seen (hostAccess (.regWrite 4 (.reg 0 0x100) 1) s) = .inr (.inl .outsideRegisterSpace) ∧
      seen (hostAccess (.regRead 4 (.reg 1 0x020)) s) = .inr (.inl .noSuchInstance) ∧
      seen (hostAccess (.resetInstance 1) s) = .inr (.inl .noSuchInstance) := by decide +kernel

/-- A write of 0x00000301 to `CMD` (M2), as the host's next access and as `withFetchWord` places it. -/
theorem test_step_runs_a_command :
    let s := machineOf [(.width, 16), (.height, 16), (.coordT, 9)] []
    let t := { s with pending := [.regWrite 4 (.reg 0 0) 0x00000301, .resetAll] }
    report (stateAfter (step t) t) = (1, 0, 33) ∧ (stateAfter (step t) t).pending = [.resetAll] ∧
      report (stateAfter (step (s.withFetchWord 32 0x00000301)) s) = (1, 0, 33) := by decide +kernel

/-- Program 3, steps 21 to 23: a word that is no command leaves UP 0x02 and clears `OUT_LEN`. -/
theorem test_step_undefined_word :
    let s := { machineOf (pixels 4 4 1) [] with
      regs := ⟨paramsOf (pixels 4 4 1), ⟨1, 16, 0, 0, 0⟩⟩, pending := [.regWrite 4 (.reg 0 0) 0x00000006] }
    report (stateAfter (step s) s) = (0x223, 0, 0) := by decide +kernel

theorem test_step_idle : seen (step (machineOf [] [])) = .inl (machineOf [] []) := by decide +kernel

/-- R390, R401: an access and a reset of instance 1 leave instance 0 as it was. -/
theorem test_instances :
    let s := twoOf [(.width, 5)] [(.width, 6)] []
    let t := stateAfter (hostAccess (.regWrite 4 (.reg 1 0x024) 7) s) s
    let u := stateAfter (hostAccess (.resetInstance 1) t) t
    (t.instances.map fun f => (f.params.width, f.params.height)) = [(5, 0), (6, 7)] ∧
      (u.instances.map fun f => f.params.width) = [5, 0] := by decide +kernel

/-- A store of the unlisted value takes the entry away, and entries stay in order. -/
theorem test_memory_canonical :
    Memory.writeBytes (Memory.writeBytes [] 4 [7]) 2 [1, 0, 0] = [(2, 1)] ∧
      Memory.writeBytes (Memory.writeBytes [] 4 [7]) 2 [1, 0] = [(2, 1), (4, 7)] := by decide +kernel

/-! ## States that meet the hypotheses of the statements -/

/-- `CommandWordsFollowTheDecodeOrder`: the words that meet each clause, at the bounds of the fields. -/
theorem test_witness_commandWords :
    (0x00000401 : Word).toNat / 1024 ≠ 0 ∧ (0x00000706 : Word).toNat / 1024 ≠ 0 ∧
      ((0x00000006 : Word).toNat / 1024 = 0 ∧ (0x00000006 : Word).toNat % 256 = 6) ∧
      ((0x00000303 : Word).toNat / 1024 = 0 ∧ (0x00000303 : Word).toNat / 256 % 4 = 3) ∧
      ((0x00000301 : Word).toNat % 256 = 0x01 ∧ decode 0x00000301 = .ok .mortonIdx) := by decide

/-- R91: a host write of a word to `CMD`, step by step of the decoder: reserved bits before an unassigned OPC, and an
unassigned OPC before an undefined IDX; the last word is `MORTON.IDX`, which finds `WIDTH` 0. -/
theorem test_commandWords :
    let after := fun c => (stateAfter (hostAccess (.regWrite 4 (.reg 0 0) c) State.reset) State.reset).regs.results.status
    [0x00000401, 0x80000706, 0x00000006, 0x00000300, 0x00000303, 0x00000340, 0x00000301].map after =
      [0x123, 0x123, 0x223, 0x223, 0x323, 0x323, 0x113] := by decide +kernel

/-- `StepRunsTheDecodedCommand`: a command for the instance that is not addressed. -/
theorem test_witness_step :
    let s := { twoOf [] [(.width, 6)] [] with pending := [.regWrite 4 (.reg 1 0) 0x00000301] }
    ((s.taking []).select 1).isSome = true ∧ decode 0x00000301 = .ok .mortonIdx ∧
      Instr.mortonIdx.wellFormed = true ∧ (0x00000301 : Nat) < 2 ^ 32 := by decide +kernel

/-- `MalformedRegisterAccessesStop`: an offset of each clause, at the bounds. -/
theorem test_witness_offsets :
    (0x001 % 4 ≠ 0 ∧ 0x0FF % 4 ≠ 0) ∧ (0x100 % 4 = 0 ∧ 256 ≤ 0x100) := by decide

/-- `RegisterFileReadsBackItsWrites`: the registers R24 lists first and last, and next to a gap; the offsets around them
are reserved or read-only. -/
theorem test_witness_registerMap :
    [0x014, 0x018, 0x020, 0x034, 0x038, 0x040, 0x068, 0x06C, 0x07C, 0x080, 0x0C8, 0x0CC, 0x0FC].map regAt =
      [some .resultHi, none, some (.param .width), some (.param .blockBytes), none, some (.param .srcBaseLo),
        some (.param .coordT), none, none, some (.param .ps2SwizzleType), some (.param .wiiuSurfSizeHi), none, none] := by
  decide

/-- The invariant holds of a state with one instance, legal results and canonical memory. -/
theorem inv_of_single {s : State} (ho : s.others = []) (hs : s.selected = 0) (hm : s.mem.wf)
    (hr : s.regs.results.Legal) : Inv s where
  memory := hm
  addressed := by omega
  results := by
    rintro f (rfl | hf)
    · exact hr
    · rw [ho] at hf; cases hf

/-- `EveryStepKeepsTheInvariant`: a state with memory and a command to come. -/
theorem test_witness_invariant :
    let s := { machineOf (regs [pixels 3 3 1, [(.tileW, 2), (.tileH, 2)], buffers 9]) (image 9) with
      pending := [.regWrite 4 (.reg 0 0) 0x00000110] }
    Inv s ∧ ∃ t, step s = .next t :=
  ⟨inv_of_single rfl rfl (by decide +kernel) (.inl rfl), ⟨_, rfl⟩⟩

/-- `AddrAndIdxTouchNoMemory`. -/
theorem test_witness_addrAndIdx : Instr.wiiuAddr.fn = .addr ∧ Instr.mortonRIdx.fn = .idx := by decide

/-- `OutcomeDependsOnItsInputsOnly`: two memories that differ outside the source only. -/
theorem test_witness_outcome :
    let s := machineOf (regs [pixels 4 2 2, buffers 16]) (image 16)
    let s' := { s with mem := s.mem.writeBytes 0x1010 [9] }
    s'.regs.params = s.regs.params ∧ s' ≠ s ∧
      ∀ k, k < s.regs.params.srcLen →
        s'.mem.read (s.regs.params.srcBase + k) = s.mem.read (s.regs.params.srcBase + k) := by
  refine ⟨rfl, by decide +kernel, fun k hk => ?_⟩
  refine Memory.read_writeBytes_of_outside (.inl ?_)
  have h1 : (machineOf (regs [pixels 4 2 2, buffers 16]) (image 16)).regs.params.srcLen = 16 := by decide +kernel
  have h2 : (machineOf (regs [pixels 4 2 2, buffers 16]) (image 16)).regs.params.srcBase = 0x1000 := by decide +kernel
  omega

/-- `AccessesToOneInstanceLeaveTheOthers`: a command word, a register and a reset of instance 1. -/
theorem test_witness_accesses :
    let s := twoOf [] [] []
    s.selected ≤ s.others.length ∧ (∃ t, hostAccess (.regWrite 4 (.reg 1 0) 0x00000301) s = .next t) ∧
      (∃ t, hostAccess (.regRead 4 (.reg 1 0x020)) s = .next t) ∧ ∃ t, hostAccess (.resetInstance 1) s = .next t :=
  ⟨by decide, ⟨_, rfl⟩, ⟨_, rfl⟩, ⟨_, rfl⟩⟩

/-- `AccessesReachTheInstanceTheyName`: an instance that is not the addressed one, the offsets at the bounds, and the
first number that no instance has. -/
theorem test_witness_instances :
    let s := twoOf [(.width, 5)] [(.width, 6)] []
    s.selected ≤ s.others.length ∧ (s.instances[1]?.map fun f => f.params.width) = some 6 ∧
      ((0x000 % 4 = 0 ∧ 0x000 < 256) ∧ 0x0FC % 4 = 0 ∧ 0x0FC < 256 ∧ 0x0FC ≠ 0) ∧ s.instances[2]? = none := by
  decide +kernel

/-- R390: an access to instance 1 reads and writes its registers, and runs its command, while instance 0 is addressed. -/
theorem test_otherInstance :
    let s := twoOf [(.width, 5)] (regs [[(.width, 16), (.height, 16)], [(.coordT, 9)]]) []
    (stateAfter (hostAccess (.regRead 4 (.reg 1 0x020)) s) s).answer = .word 16 ∧
      (stateAfter (hostAccess (.regRead 4 (.reg 0 0x020)) s) s).answer = .word 5 ∧
      ((stateAfter (hostAccess (.regWrite 4 (.reg 1 0) 0x00000301) s) s).instances.map fun f => f.results.resultLo) =
        [0, 33] := by decide +kernel

/-- `BusAddressesReachTheInstanceThatHoldsThem`: one instance, whatever its `TSE_BASE` is; its last word, and the first
address above its register space. -/
theorem test_witness_bus :
    let s := machineOf [] []
    Config.BasesApartBelow s.instanceCount ∧ 0 < s.instanceCount ∧ 0x0FC < 256 ∧
      ∀ j, j < s.instanceCount →
        ¬ (Config.tseBase j ≤ Config.tseBase 0 + 256 ∧ Config.tseBase 0 + 256 < Config.tseBase j + 256) := by
  intro s
  have hc : s.instanceCount = 1 := rfl
  refine ⟨fun j k hj hk hne => ?_, by omega, by decide, fun j hj => ?_⟩
  · omega
  · obtain rfl : j = 0 := by omega
    omega

/-- R20: the bus address of `WIDTH` of the one instance, and one past its register space. -/
theorem test_bus :
    let s := machineOf [(.width, 7)] []
    hostAccess (.regRead 4 (.bus (Config.tseBase 0 + 0x020))) s = .next { s with answer := .word 7 } ∧
      hostAccess (.regRead 4 (.bus (Config.tseBase 0 + 256))) s = .fault .noSuchInstance := by
  intro s
  have hb : Config.BasesApartBelow s.instanceCount := test_witness_bus.1
  refine ⟨?_, ?_⟩
  · exact registerAccess_of_wf (act := readRegister) (resolveTarget_bus hb (by decide) (by decide)) s.select_self
      (by decide) (by decide)
  · exact registerAccess_of_unresolved (s := s) (resolveTarget_bus_eq_none test_witness_bus.2.2.2) readRegister

/-- Two instances with 16-byte buffers that share no byte. -/
def disjoint : State :=
  twoOf (regs [pixels 4 4 1, [(.srcBaseLo, 0x1000), (.srcLenLo, 16), (.dstBaseLo, 0x2000), (.dstCapLo, 16)]])
    (regs [pixels 4 4 1, [(.srcBaseLo, 0x1000), (.srcLenLo, 16), (.dstBaseLo, 0x2010), (.dstCapLo, 16)]]) (image 16)

/-- `CommandsOnDisjointBuffersCommute`: both commands complete in either order. -/
theorem test_witness_commute :
    ∃ fj fk : RegFile, disjoint.selected ≤ disjoint.others.length ∧ disjoint.instances[0]? = some fj ∧
      disjoint.instances[1]? = some fk ∧
      (∀ x, fj.params.dstBase ≤ x → x < fj.params.dstBase + fj.params.dstCap →
        ¬ (fk.params.srcBase ≤ x ∧ x < fk.params.srcBase + fk.params.srcLen) ∧
        ¬ (fk.params.dstBase ≤ x ∧ x < fk.params.dstBase + fk.params.dstCap)) ∧
      (∀ x, fk.params.dstBase ≤ x → x < fk.params.dstBase + fk.params.dstCap →
        ¬ (fj.params.srcBase ≤ x ∧ x < fj.params.srcBase + fj.params.srcLen)) ∧
      (∃ a b, hostAccess (.regWrite 4 (.reg 0 0) 0x00000101) disjoint = .next a ∧
        hostAccess (.regWrite 4 (.reg 1 0) 0x00000101) a = .next b) ∧
      (∃ a b, hostAccess (.regWrite 4 (.reg 1 0) 0x00000101) disjoint = .next a ∧
        hostAccess (.regWrite 4 (.reg 0 0) 0x00000101) a = .next b) := by
  refine ⟨_, _, by decide, rfl, rfl, ?_, ?_, ⟨_, _, rfl, rfl⟩, ⟨_, _, rfl, rfl⟩⟩
  · intro x h1 h2
    have hd : x < 0x2000 + 16 ∧ 0x2000 ≤ x := ⟨h2, h1⟩
    exact ⟨fun h => absurd (show x < 0x1000 + 16 from h.2) (by omega),
      fun h => absurd (show 0x2010 ≤ x from h.1) (by omega)⟩
  · intro x h1 _ h
    have hd : 0x2010 ≤ x := h1
    exact absurd (show x < 0x1000 + 16 from h.2) (by omega)

/-- `IlvInvertsMidx`, `MidxIsABijectionOnPowersOfTwo` and `MidxStaysInTheImage`: the bounds of the ranges. -/
theorem test_witness_morton :
    (15 < 2 ^ 4 ∧ 0 < 2 ^ 0) ∧ 255 < 2 ^ 4 * 2 ^ 4 ∧ (1 ≤ 3 ∧ 1 ≤ 1) ∧ ilv 15 0 16 1 = 15 ∧ midx 255 16 16 = 255 := by
  decide +kernel

/-- `XgOffIsABijection`: the last unit of a 32 x 128 image of 1-byte units and of a 64 x 32 image of 16-byte units. -/
theorem test_witness_xgOff :
    (1 ∈ [1, 2, 4, 8, 16] ∧ 32 % 32 = 0 ∧ 128 % (if 1 = 1 then 128 else if 1 = 2 then 64 else 32) = 0 ∧ 31 < 32 ∧ 127 < 128) ∧
      (16 ∈ [1, 2, 4, 8, 16] ∧ 64 % 32 = 0 ∧ 32 % (if 16 = 1 then 128 else if 16 = 2 then 64 else 32) = 0 ∧ 63 < 64 ∧
        31 < 32) := by decide

/-- `TiledMortonIsABijection` and `Ps28OffsetIsABijection`: two units of an image. -/
theorem test_witness_tiles :
    (8 < 9 ∧ 0 < 2 ∧ 0 < 9 ∧ 1 < 2 ∧ tmAddr (2 ^ 3) (2 ^ 3) 9 2 1 8 0 = 16 ∧ tmAddr (2 ^ 3) (2 ^ 3) 9 2 1 0 1 = 8) ∧
      (16 % 16 = 0 ∧ 4 % 4 = 0 ∧ 15 < 16 ∧ 3 < 4 ∧ ps28Offset 16 1 0 = 4 ∧ ps28Offset 16 15 3 = 47) := by decide +kernel

/-- `NswUnitsArePlacedApart`: a geometry that passes the checks. -/
theorem test_witness_nsw :
    firstError (nswChecks (paramsOf (regs [pixels 5 3 4, [(.gobBlockH, 1), (.widthPad, 1), (.heightPad, 1)]]))) = none := by
  decide +kernel

/-- A layout with padding: two units of two bytes, the second first. -/
def swapped : Layout := ⟨2, 2, fun i => 3 * (1 - i), 6⟩

/-- `RoundTripOfEveryPlacedLayout`: that layout, with bytes that are covered and bytes that are not. -/
theorem test_witness_placedLayout :
    swapped.Placed ∧ swapped.Apart ∧ swapped.Covers 0 ∧ ¬ swapped.Covers 2 ∧ [1, 2, 3, 4].length = swapped.linLen := by
  refine ⟨swapped.placedTest_iff.1 (by decide), swapped.apartTest_iff.1 (by decide), ⟨1, by decide, by decide, by decide⟩,
    ?_, by decide⟩
  rintro ⟨i, hi, h1, h2⟩
  have hi' : i < 2 := hi
  have h1' : 3 * (1 - i) ≤ 2 := h1
  have h2' : 2 < 3 * (1 - i) + 2 := h2
  omega

/-- What `RoundTripThroughMemory` asks of a pair of commands, as a test: both end with `STATUS` 1. -/
def roundTrips (sw un : State → CmdResult) (s : State) : Bool :=
  let t := s.complete (sw s)
  let t' := t.redirected (BitVec.ofNat 64 s.regs.params.dstBase)
    (t.regs.results.outLenHi ++ t.regs.results.outLenLo) 0x20000 0x1000
  decide (t.regs.results.status = 1) && decide ((t'.complete (un t')).regs.results.status = 1)

/-- How a command of the fixed families ends. -/
def ending (i : Instr) (s : State) : State := stateAfter (exec i s) s

/-- `RoundTripThroughMemory`: a padded geometry of each of BLK and NSW, and one of each other family. -/
theorem test_witness_roundTrip :
    let pair := fun (sw un : Instr) (l : List (ParamReg × Nat)) (n : Nat) =>
      let s := machineOf (regs [l, buffers n]) (image n)
      let t := ending sw s
      let t' := t.redirected (BitVec.ofNat 64 s.regs.params.dstBase)
        (t.regs.results.outLenHi ++ t.regs.results.outLenLo) 0x20000 0x1000
      (t.regs.results.status, (ending un t').regs.results.status)
    let nsw : List (ParamReg × Nat) := [(.gobBlockH, 1), (.widthPad, 1), (.heightPad, 1)]
    pair .mortonSwz .mortonUnswz (pixels 4 4 1) 16 = (1, 1) ∧ pair .mortonRSwz .mortonRUnswz (pixels 4 2 1) 8 = (1, 1) ∧
      pair .ps4Swz .ps4Unswz (pixels 9 2 1) 18 = (1, 1) ∧
      pair .blkSwz .blkUnswz (regs [pixels 3 3 1, [(.tileW, 2), (.tileH, 2)]]) 9 = (1, 1) ∧
      pair .n3dsSwz .n3dsUnswz (pixels 8 8 1) 64 = (1, 1) ∧
      pair .pspSwz .pspUnswz [(.width, 16), (.height, 8), (.bpp, 8)] 128 = (1, 1) ∧
      pair .ps28Swz .ps28Unswz [(.width, 16), (.height, 4), (.ps2SwizzleType, 1)] 64 = (1, 1) ∧
      pair .ps2PalSwz .ps2PalUnswz [(.palEntryBytes, 2)] 64 = (1, 1) ∧
      pair .nswSwz .nswUnswz (regs [pixels 5 3 4, nsw]) 60 = (1, 1) := by decide +kernel

/-- `OpenFamiliesRoundTripThroughMemory`: an instance of each OPEN parameter. -/
theorem test_witness_openRoundTrip :
    roundTrips (ps5Swz (some .tile16x16)) (ps5Unswz (some .tile16x16))
        (machineOf (regs [pixels 17 2 1, buffers 34]) (image 34)) = true ∧
      roundTrips (ps24Swz mirrored) (ps24Unswz mirrored) texels = true ∧
      roundTrips (wiiuSwz (gx2Format 1)) (wiiuUnswz (gx2Format 1)) (machineOf (regs [rows4, buffers 4]) (image 4)) = true := by
  decide +kernel

/-- `X360RoundTripThroughMemory`: the smallest legal image. -/
theorem test_witness_x360RoundTrip :
    ∃ t u, exec .x360Swz (tiled 1 oneUnit) = .next t ∧ t.regs.results.status = 1 ∧
      exec .x360Unswz (t.redirected 0x8000 (t.regs.results.outLenHi ++ t.regs.results.outLenLo) 0x20000 0x1000) = .next u ∧
      u.regs.results.status = 1 := by
  have hs : execX360Swz (tiled 1 oneUnit) = .next ((tiled 1 oneUnit).succeedOutput
      (swizzle 0 (x360Layout (tiled 1 oneUnit).regs.params) (tiled 1 oneUnit).source)) := by
    have hc : firstError (x360SwapCheck (tiled 1 oneUnit).regs.params :: x360Checks (tiled 1 oneUnit).regs.params ++
        bufferChecks (tiled 1 oneUnit).regs.params (x360Layout (tiled 1 oneUnit).regs.params).linLen
          (x360Layout (tiled 1 oneUnit).regs.params).swzLen) = none := by decide +kernel
    have hb : ∀ b, swapBytes (tiled 1 oneUnit).regs.params.swapUnit.toNat b = b := fun b => rfl
    simp only [execX360Swz, remapResult, hc, hb, State.complete_output]
  have hlen : (swizzle 0 (x360Layout (tiled 1 oneUnit).regs.params) (tiled 1 oneUnit).source).length = 4096 := by
    rw [length_swizzle]; decide +kernel
  refine ⟨_, _, hs, rfl, rfl, ?_⟩
  simp only [State.succeedOutput_results, Results.of, hlen]
  decide +kernel

/-- `WiiuLinearModesIgnoreTheSeeds`: W1. -/
theorem test_witness_wiiuLinear :
    let p := paramsOf (regs [surface 0, coords 3 2])
    p.wiiuTileMode.toNat ≤ 1 ∧ p.wiiuSlice = 0 ∧ p.wiiuSample = 0 ∧ wiiuAddr (gx2Format 0x1A) p = .value 524 := by
  decide +kernel

/-- `OutOfBoundsNeedsAFaultyFunction`: a command of the first part, and functions that keep property 1 of R272. -/
theorem test_witness_lawful :
    Instr.ps28Addr ∉ [Instr.ps24Unswz, .ps24Swz, .ps24Addr] ∧ mirrored.ok 4 2 = true ∧
      ∀ W H, mirrored.ok W H = true → Config.Ps24Bijective mirrored.addr W H := by
  refine ⟨by decide, by decide, fun W H _ => ⟨fun x y hx hy => ?_, fun x y x' y' hx hy hx' hy' he => ?_⟩⟩
  · exact grid_index_lt (x := W - 1 - x) (by omega) hy
  · have he' : y * W + (W - 1 - x) = y' * W + (W - 1 - x') := he
    have hr := congrArg (· % W) he'
    have hq := congrArg (· / W) he'
    simp only [Nat.mul_comm _ W, Nat.mul_add_mod, Nat.mod_eq_of_lt (show W - 1 - x < W by omega),
      Nat.mod_eq_of_lt (show W - 1 - x' < W by omega), Nat.mul_add_div (show 0 < W by omega),
      Nat.div_eq_of_lt (show W - 1 - x < W by omega), Nat.div_eq_of_lt (show W - 1 - x' < W by omega)] at hr hq
    omega

/-- `ByteSwapIsAnInvolution`: the last byte of an 8-byte buffer. -/
theorem test_witness_byteSwap :
    2 ≤ 2 ∧ [0, 1, 2, 3, 4, 5, 6, 7].length % 4 = 0 ∧ 7 < [0, 1, 2, 3, 4, 5, 6, 7].length ∧ swapPlace 2 7 = 4 ∧
      swapPlace 0 7 = 6 ∧ swapPlace 1 7 = 7 := by decide

/-- `CommandsRightAfterReset`: Z1 to Z5, Z7 to Z10 in the state after reset itself, and the other families with no OPEN
parameter, `PS4.SWZ` and `3DS.ADDR` among them (R402). -/
theorem test_witness_afterReset :
    let after := fun i => (stateAfter (exec i State.reset) State.reset).regs.results.status
    [Instr.mortonSwz, .mortonRUnswz, .ps4Swz, .blkAddr, .n3dsAddr, .mortonIdx].map after =
        [0x113, 0x113, 0x113, 0x113, 0x113, 0x113] ∧
      [Instr.ps2PalSwz, .ps2PalUnswz, .ps2PalAddr, .nswAddr, .x360Addr, .x360Swz, .pspUnswz, .ps28Swz, .ps24Swz].map after =
        [0x1123, 0x1123, 0x1123, 0x1423, 0x1323, 0x1323, 0x1623, 0x1023, 0x1023] := by decide +kernel

/-- R402 for PS5 and WIIU, with the OPEN parameter as an argument: undefined, and defined (Z6 for WIIU). -/
theorem test_afterReset_open :
    let after := fun r : CmdResult => (State.reset.complete r).regs.results.status
    after (ps5Swz none State.reset) = 0x2323 ∧ after (ps5Swz (some .tile16x16) State.reset) = 0x113 ∧
      after (wiiuAddr (gx2Format 0) State.reset.regs.params) = 0x2123 ∧
      after (wiiuAddr (gx2Format 0x1A) State.reset.regs.params) = 0x113 := by decide +kernel

end Sys2Proof.Tests
end

section
/-! The register accesses of the host, one rule for each kind of register (R24, R25, R26, R34, R61). -/

namespace Sys2Proof.Machine

/-! ## The register map -/

/-- The registers of R24 stand at aligned offsets of the 256-byte register space (R35, R61). -/
theorem regAt_wellPlaced {offset : Nat} {r : Reg} (h : regAt offset = some r) : offset % 4 = 0 ∧ offset < 256 := by
  obtain ⟨before, after, hmap, -⟩ := List.lookup_eq_some_iff.1 h
  have hmem : (offset, r) ∈ registerMap := by simp [hmap]
  have hall : ∀ e ∈ registerMap, e.1 % 4 = 0 ∧ e.1 < 256 := by decide
  exact hall _ hmem

/-- The part of the register map that holds the parameter registers, offset by offset. -/
def parameterMap : List (Nat × ParamReg) :=
  registerMap.filterMap fun
    | (offset, .param r) => some (offset, r)
    | _ => none

theorem regAt_of_mem_parameterMap {offset : Nat} {r : ParamReg} (h : (offset, r) ∈ parameterMap) :
    regAt offset = some (.param r) := by
  have hall : ∀ e ∈ parameterMap, regAt e.1 = some (.param e.2) := by decide
  exact hall _ h

/-- No parameter register has two offsets. -/
theorem parameterMap_offset_unique {o o' : Nat} {r : ParamReg} (h : (o, r) ∈ parameterMap)
    (h' : (o', r) ∈ parameterMap) : o' = o := by
  have hnodup : (parameterMap.map Prod.snd).Nodup := by decide
  exact congrArg Prod.fst (List.inj_on_of_nodup_map hnodup h' h rfl)

/-! ## Accesses in the state that addresses what they name -/

theorem hostAccess_read_of_select {s s' : State} {k offset : Nat} (h : s.select k = some s')
    (haligned : offset % 4 = 0) (hinside : offset < 256) :
    hostAccess (.regRead 4 (.reg k offset)) s = .next { s' with answer := .word (s'.regs.readOffset offset) } :=
  registerAccess_of_wf (target := .reg k offset) (act := readRegister) rfl h haligned hinside

theorem hostAccess_write_of_select {s s' : State} {k offset : Nat} (v : Word) (h : s.select k = some s')
    (haligned : offset % 4 = 0) (hinside : offset < 256) (hne : offset ≠ 0) :
    hostAccess (.regWrite 4 (.reg k offset) v) s = .next { s' with regs := s'.regs.writeOffset offset v } := by
  rw [← writeRegister_of_ne v s' hne]
  exact registerAccess_of_wf (target := .reg k offset) (act := writeRegister v) rfl h haligned hinside

/-- R25: a command word written to `CMD` runs its command. -/
theorem hostAccess_write_cmd {s s' : State} {k : Nat} {c : Word} {i : Instr} (h : s.select k = some s')
    (hc : decode c = .ok i) : hostAccess (.regWrite 4 (.reg k 0) c) s = exec i s' := by
  calc hostAccess (.regWrite 4 (.reg k 0) c) s
      = writeRegister c 0 s' :=
        registerAccess_of_wf (target := .reg k 0) (act := writeRegister c) rfl h (by decide) (by decide)
    _ = runCommand c s' := writeRegister_cmd c s'
    _ = exec i s' := runCommand_of_decode hc

/-! ## Accesses to the addressed register file -/

variable {s : State} {offset : Nat}

/-- A host read at a register's offset answers the register. -/
theorem hostAccess_read_reg {r : Reg} (h : regAt offset = some r) :
    hostAccess (.regRead 4 (.reg s.selected offset)) s = .next { s with answer := .word (s.regs.readReg r) } := by
  obtain ⟨haligned, hinside⟩ := regAt_wellPlaced h
  rw [← s.regs.readOffset_of_reg h]
  exact hostAccess_read_of_select s.select_self haligned hinside

/-- A host write at the offset of a register other than `CMD` writes that register. -/
theorem hostAccess_write_reg {r : Reg} (v : Word) (h : regAt offset = some r) (hcmd : r ≠ .cmd) :
    hostAccess (.regWrite 4 (.reg s.selected offset) v) s = .next { s with regs := s.regs.writeReg r v } := by
  obtain ⟨haligned, hinside⟩ := regAt_wellPlaced h
  have hne : offset ≠ 0 := fun h0 => hcmd (Option.some.inj (h.symm.trans (regAt_eq_cmd.2 h0)))
  rw [← s.regs.writeOffset_of_reg v h]
  exact hostAccess_write_of_select v s.select_self haligned hinside hne

/-- R26 to R28: a host write to a read-only register changes nothing. -/
theorem hostAccess_write_readOnly {r : Reg} (v : Word) (h : regAt offset = some r) (hcmd : r ≠ .cmd)
    (hparam : ∀ p, r ≠ .param p) : hostAccess (.regWrite 4 (.reg s.selected offset) v) s = .next s := by
  rw [hostAccess_write_reg v h hcmd, s.regs.writeReg_of_readOnly v hparam]

/-- R34: a reserved offset reads 0. -/
theorem hostAccess_read_reserved (h : regAt offset = none) (haligned : offset % 4 = 0) (hinside : offset < 256) :
    hostAccess (.regRead 4 (.reg s.selected offset)) s = .next { s with answer := .word 0 } := by
  rw [← s.regs.readOffset_of_reserved h]
  exact hostAccess_read_of_select s.select_self haligned hinside

/-- R34: a write at a reserved offset changes nothing. -/
theorem hostAccess_write_reserved (v : Word) (h : regAt offset = none) (haligned : offset % 4 = 0)
    (hinside : offset < 256) : hostAccess (.regWrite 4 (.reg s.selected offset) v) s = .next s := by
  have hne : offset ≠ 0 := by
    rintro rfl
    cases h
  rw [hostAccess_write_of_select v s.select_self haligned hinside hne, s.regs.writeOffset_of_reserved v h]

end Sys2Proof.Machine
end

section
/-! What choosing among the instances leaves, and the reset of one of them (R390, R401). -/

namespace Sys2Proof.Machine

/-- What addressing number `k` leaves, whichever of the instances was addressed before: `State.select_spec` without its
premise. -/
theorem State.select_keeps {s s' : State} {k : Nat} (h : s.select k = some s') :
    s'.selected = k ∧ s'.mem = s.mem ∧ s'.pending = s.pending ∧ (k = s.selected → s' = s) ∧
      (k ≠ s.selected → s.instances[k]? = some s'.regs) := by
  unfold State.select at h
  split at h
  · next hk =>
    obtain rfl := Option.some.inj h
    exact ⟨hk.symm, rfl, rfl, fun _ => rfl, fun hne => absurd hk hne⟩
  · next hk =>
    split at h
    · next f hf =>
      obtain rfl := Option.some.inj h
      exact ⟨rfl, rfl, rfl, fun heq => absurd heq hk, fun _ => hf⟩
    · cases h

/-- R401: the reset of number `k` resets the registers addressed once `k` is. -/
theorem hostAccess_resetInstance {s s' : State} {k : Nat} (h : s.select k = some s') :
    hostAccess (.resetInstance k) s = .next s'.resetSelected := by
  simp only [hostAccess, resetInstance, h]

theorem hostAccess_resetInstance_of_no_instance {s : State} {k : Nat} (h : s.select k = none) :
    hostAccess (.resetInstance k) s = .fault .noSuchInstance := by
  simp only [hostAccess, resetInstance, h]

end Sys2Proof.Machine
end

section
/-! ADDR and IDX commands and external memory (R35, R125). -/

namespace Sys2Proof.Machine

/-- A command that ends in an error or a value stores nothing. -/
theorem State.complete_valueResult_mem (s : State) (checks : List Check) (v : Nat) :
    (s.complete (valueResult checks v)).mem = s.mem := by
  rcases valueResult_cases checks v with ⟨e, -, hr⟩ | ⟨-, hr⟩
  · rw [hr, State.complete_error, State.raise_mem]
  · rw [hr, State.complete_value, State.succeedValue_mem]

/-- A command that ends in an error or a value leaves the same registers over any memory. -/
theorem State.complete_valueResult_with_mem (s : State) (m : Memory) (checks : List Check) (v : Nat) :
    ({ s with mem := m } : State).complete (valueResult checks v) =
      { s.complete (valueResult checks v) with mem := m } := by
  rcases valueResult_cases checks v with ⟨e, -, hr⟩ | ⟨-, hr⟩ <;> rw [hr] <;> rfl

/-- Every ADDR and IDX command runs checks and ends in a value (R125, R156), and both are the same over any memory. -/
theorem exec_addr_or_idx {i : Instr} (h : i.fn = .addr ∨ i.fn = .idx) (s : State) (m : Memory) :
    ∃ checks v, exec i s = .next (s.complete (valueResult checks v)) ∧
      exec i { s with mem := m } = .next (({ s with mem := m } : State).complete (valueResult checks v)) := by
  cases i
  case mortonAddr | mortonIdx | mortonRAddr | mortonRIdx | x360Addr | ps4Addr | ps5Addr | blkAddr | n3dsAddr | pspAddr
      | ps28Addr | ps24Addr | ps2PalAddr | nswAddr | wiiuAddr => exact ⟨_, _, rfl, rfl⟩
  all_goals simp [Instr.fn] at h

end Sys2Proof.Machine
end

section
/-! The statements about the register file and the instances. -/

namespace Sys2Proof.Machine

/-- Settles O6: the statement's list is `parameterMap` with each register read as its field of `Params`, so each entry
is one parameter register that the rules of `Params.set` and `Params.get` speak of. -/
theorem registerFileReadsBackItsWrites : Obligations.RegisterFileReadsBackItsWrites := by
  intro s v parameters
  have hmap : parameters = parameterMap.map fun e => (e.1, fun p : Params => p.get e.2) := rfl
  have hreserved : ∀ offset ∈ [0x018, 0x01C, 0x038, 0x03C, 0x06C, 0x070, 0x074, 0x078, 0x07C, 0x0CC, 0x0D0, 0x0D4,
      0x0D8, 0x0DC, 0x0E0, 0x0E4, 0x0E8, 0x0EC, 0x0F0, 0x0F4, 0x0F8, 0x0FC],
      regAt offset = none ∧ offset % 4 = 0 ∧ offset < 256 := by decide
  rw [hmap]
  constructor
  · intro e he
    obtain ⟨⟨offset, r⟩, hr, rfl⟩ := List.mem_map.1 he
    have hat := regAt_of_mem_parameterMap hr
    refine ⟨hostAccess_read_reg hat, _, hostAccess_write_reg v hat (by simp), s.regs.params.get_set_self r v, ?_, rfl,
      rfl, rfl, rfl, ?_⟩
    · intro e' he' hne
      obtain ⟨⟨offset', r'⟩, hr', rfl⟩ := List.mem_map.1 he'
      refine Params.get_set_of_ne _ v ?_
      rintro rfl
      exact hne (parameterMap_offset_unique hr hr')
    · rw [hostAccess_read_reg hat]
      simp [RegFile.readReg]
  · intro offset ho
    obtain ⟨hat, haligned, hinside⟩ := hreserved offset ho
    exact ⟨hostAccess_read_reserved hat haligned hinside, hostAccess_write_reserved v hat haligned hinside⟩

/-- Settles O12: an ADDR or IDX command ends in an error or a value that depends on no byte of memory. -/
theorem addrAndIdxTouchNoMemory : Obligations.AddrAndIdxTouchNoMemory := by
  intro i s m hfn
  obtain ⟨checks, v, hexec, hother⟩ := exec_addr_or_idx hfn s m
  refine ⟨_, hexec, s.complete_valueResult_mem checks v, ?_⟩
  rw [hother, s.complete_valueResult_with_mem m checks v]

/-- Settles O59: the state that addresses number `k` is what `State.select` gives, and every access to `k` runs
there. -/
theorem accessesReachTheInstanceTheyName : Obligations.AccessesReachTheInstanceTheyName := by
  intro s k hs
  constructor
  · intro f hf
    obtain ⟨s', hsel⟩ := State.select_of_getElem? hf
    obtain ⟨hk, hinst, hregs, hlen, hle, hmem, hpending, hanswer⟩ := State.select_spec hs hsel
    obtain rfl : s'.regs = f := Option.some.inj (hregs.symm.trans hf)
    have hs' : s'.selected ≤ s'.others.length := by omega
    have hset : ∀ f : RegFile, ({ s' with regs := f } : State).instances = s.instances.set k f := by
      intro f
      rw [State.instances_with_regs hs' f, hinst, hk]
    refine ⟨?_, ?_, ?_, ?_⟩
    · intro offset haligned hinside
      exact ⟨_, hostAccess_read_of_select hsel haligned hinside, rfl, hinst, hmem⟩
    · intro offset v haligned hinside hne
      exact ⟨_, hostAccess_write_of_select v hsel haligned hinside hne, hset _, hmem⟩
    · exact ⟨_, hostAccess_resetInstance hsel, hset _, hmem⟩
    · refine ⟨s', hk, rfl, hinst, hmem, hpending, hanswer, ?_, ?_, ?_⟩
      · exact fun bytes offset => registerAccess_select hs hsel bytes offset readRegister
      · exact fun bytes offset v => registerAccess_select hs hsel bytes offset (writeRegister v)
      · rw [hostAccess_resetInstance hsel, hostAccess_resetInstance s'.select_self]
  · intro hnone
    have hsel := State.select_eq_none hs hnone
    exact ⟨fun offset v => ⟨registerAccess_of_no_instance hsel offset readRegister,
      registerAccess_of_no_instance hsel offset (writeRegister v)⟩, hostAccess_resetInstance_of_no_instance hsel⟩

/-- Settles O60: where register spaces are apart, a bus address in one of them resolves to its number and offset. -/
theorem busAddressesReachTheInstanceThatHoldsThem : Obligations.BusAddressesReachTheInstanceThatHoldsThem := by
  intro s
  constructor
  · intro hapart k offset bytes v hk ho
    have hresolve : resolveTarget s.instanceCount (.bus (Config.tseBase k + offset)) =
        resolveTarget s.instanceCount (.reg k offset) := resolveTarget_bus hapart hk ho
    exact ⟨registerAccess_congr hresolve bytes readRegister, registerAccess_congr hresolve bytes (writeRegister v)⟩
  · intro a v hout
    have hresolve := resolveTarget_bus_eq_none hout
    exact ⟨registerAccess_of_unresolved hresolve readRegister, registerAccess_of_unresolved hresolve (writeRegister v)⟩

/-- Settles O4: the access is taken off the list, addresses what it names and runs the command there. -/
theorem stepRunsTheDecodedCommand : Obligations.StepRunsTheDecodedCommand := by
  constructor
  · intro s s' rest k c i hpending hsel hdecode _
    obtain ⟨hk, hmem, hrest, hsame, hother⟩ := State.select_keeps hsel
    refine ⟨?_, hrest, hmem, hk, ?_, hother⟩
    · rw [step_access hpending, hostAccess_write_cmd hsel hdecode]
    · intro heq
      rw [hsame heq]
      exact ⟨rfl, rfl⟩
  · intro s w i hw hdecode
    rw [step_access (s.withFetchWord_pending 32 w), Nat.mod_eq_of_lt hw]
    exact hostAccess_write_cmd (s.taking s.pending).select_self hdecode

/-- Settles O7, register by register. -/
theorem readOnlyRegistersIgnoreWrites : Obligations.ReadOnlyRegistersIgnoreWrites := by
  intro s v
  refine ⟨?_, hostAccess_read_reg (r := .cmd) rfl, hostAccess_read_reg (r := .status) rfl,
    hostAccess_read_reg (r := .outLenLo) rfl, hostAccess_read_reg (r := .outLenHi) rfl,
    hostAccess_read_reg (r := .resultLo) rfl, hostAccess_read_reg (r := .resultHi) rfl⟩
  have hreadOnly : ∀ offset ∈ [0x004, 0x008, 0x00C, 0x010, 0x014],
      ∃ r ∈ [Reg.status, .outLenLo, .outLenHi, .resultLo, .resultHi], regAt offset = some r := by decide
  intro offset ho
  obtain ⟨r, hr, hat⟩ := hreadOnly offset ho
  refine hostAccess_write_readOnly v hat ?_ ?_
  · rintro rfl
    simp at hr
  · rintro p rfl
    simp at hr

end Sys2Proof.Machine
end

section
/-! The register accesses that stop (R35, R61), and the host's own accesses to external memory (R60, R100). -/

namespace Sys2Proof.Machine

/-! ## Register accesses that stop -/

theorem registerAccess_of_width {bytes : Nat} (h : bytes ≠ 4) (target : RegTarget) (s : State)
    (act : Nat → State → Host.Outcome State Fault Refusal) :
    registerAccess bytes target s act = .refused .accessWidth := by
  simp only [registerAccess, if_pos h]

variable {s s' : State} {k offset : Nat}

theorem registerAccess_of_unaligned (hsel : s.select k = some s') (h : offset % 4 ≠ 0)
    (act : Nat → State → Host.Outcome State Fault Refusal) :
    registerAccess 4 (.reg k offset) s act = .refused .accessAlignment := by
  simp [registerAccess, resolveTarget, hsel, h]

theorem registerAccess_of_outside (hsel : s.select k = some s') (haligned : offset % 4 = 0) (h : 256 ≤ offset)
    (act : Nat → State → Host.Outcome State Fault Refusal) :
    registerAccess 4 (.reg k offset) s act = .fault .outsideRegisterSpace := by
  simp [registerAccess, resolveTarget, hsel, haligned, h]

/-! ## Storing one byte -/

theorem Memory.read_writeByte_self (m : Memory) (a : Nat) (v : Byte) : (m.writeBytes a [v]).read a = v := by
  rw [Memory.read_writeBytes, if_pos (by simp)]
  simp

theorem Memory.read_writeByte_of_ne (m : Memory) {a x : Nat} (v : Byte) (h : x ≠ a) :
    (m.writeBytes a [v]).read x = m.read x :=
  Memory.read_writeBytes_of_outside (by simp only [List.length_singleton]; omega)

end Sys2Proof.Machine
end

section
/-! What a command leaves is a function of its parameter registers and its source bytes, and its output fits the
destination (R66, R126, R136). -/

namespace Sys2Proof.Machine

/-! ## Output lengths -/

theorem length_swapPairs (buf : List Byte) : (swapPairs buf).length = buf.length := by
  induction buf using swapPairs.induct with
  | case1 a b rest ih => simp [swapPairs, ih]
  | case2 rest h => rw [swapPairs.eq_2 rest h]

theorem length_swapQuads (buf : List Byte) : (swapQuads buf).length = buf.length := by
  induction buf using swapQuads.induct with
  | case1 a b c d rest ih => simp [swapQuads, ih]
  | case2 rest h => rw [swapQuads.eq_2 rest h]

/-- R222: the byte swap moves bytes within the buffer. -/
@[simp] theorem length_swapBytes (unit : Nat) (buf : List Byte) : (swapBytes unit buf).length = buf.length := by
  unfold swapBytes
  split
  · exact length_swapPairs buf
  · split
    · exact length_swapQuads buf
    · rfl

/-- R270: two texels make a byte. -/
@[simp] theorem length_ofNibbles (texels : List Nibble) : (ofNibbles texels).length = texels.length / 2 := by
  induction texels using ofNibbles.induct with
  | case1 lo hi rest ih => simp only [ofNibbles, List.length_cons, ih]; omega
  | case2 texels h =>
    match texels, h with
    | [], _ => rfl
    | [_], _ => simp [ofNibbles]
    | lo :: hi :: rest, h => exact absurd rfl (h lo hi rest)

/-! ## Commands as functions of their inputs -/

/-- The output bytes of a completed command: none where it ends in an error or a value. -/
def CmdResult.bytes : CmdResult → List Byte
  | .error _ => []
  | .value _ => []
  | .output out => out

/-- The result registers a completed command leaves. -/
def CmdResult.results : CmdResult → Results
  | .error e => Results.of (statusError e) 0 0
  | .value v => Results.of statusOk 0 v
  | .output out => Results.of statusOk out.length 0

theorem State.complete_regs (s : State) (r : CmdResult) : (s.complete r).regs = ⟨s.regs.params, r.results⟩ := by
  cases r <;> rfl

theorem Memory.read_writeBytes_nil (m : Memory) (a x : Nat) : (m.writeBytes a []).read x = m.read x :=
  Memory.read_writeBytes_of_outside (by simp only [List.length_nil]; omega)

/-- A completed command stores its output bytes from `DST_BASE` on, and nothing else (R63, R381). -/
theorem State.complete_read (s : State) (r : CmdResult) (x : Nat) :
    (s.complete r).mem.read x = (s.mem.writeBytes s.regs.params.dstBase r.bytes).read x := by
  cases r with
  | error e => exact (Memory.read_writeBytes_nil ..).symm
  | value v => exact (Memory.read_writeBytes_nil ..).symm
  | output out => rfl

/-- The output stays within `DST_CAP` bytes from `DST_BASE` and within the address space (R64, R66). -/
def FitsDestination (p : Params) (out : List Byte) : Prop :=
  out.length ≤ p.dstCap ∧ p.dstBase + out.length ≤ 2 ^ 64

theorem fitsDestination_nil (p : Params) : FitsDestination p [] :=
  ⟨Nat.zero_le _, by rw [List.length_nil, Nat.add_zero]; exact p.dstBase_lt.le⟩

/-- A value command stores nothing. -/
@[simp] theorem bytes_valueResult (checks : List Check) (v : Nat) : (valueResult checks v).bytes = [] := by
  rcases valueResult_cases checks v with ⟨e, -, hr⟩ | ⟨-, hr⟩ <;> rw [hr] <;> rfl

/-- The checks of the buffers, wherever they stand among a command's checks, make its output fit (R126). -/
theorem remapResult_fits {checks : List Check} {p : Params} {srcLen : Nat} {out : List Byte}
    (h : ∀ c ∈ bufferChecks p srcLen out.length, c ∈ checks) :
    FitsDestination p (remapResult checks out).bytes := by
  rcases remapResult_cases checks out with ⟨e, -, hr⟩ | ⟨hpass, hr⟩
  · rw [hr]
    exact fitsDestination_nil p
  · have hbuffers : firstError (bufferChecks p srcLen out.length) = none :=
      firstError_eq_none.2 fun c hc => firstError_eq_none.1 hpass c (h c hc)
    obtain ⟨-, hcap, -, hwrap, -⟩ := firstError_bufferChecks.1 hbuffers
    rw [hr]
    exact ⟨hcap, hwrap⟩

/-- `result` says how `run` ends, from the parameter registers and the source bytes alone (R136). -/
structure EndsBy (run : State → Host.Outcome State Fault Refusal) (result : Params → List Byte → CmdResult) :
    Prop where
  ends : ∀ s, run s = .next (s.complete (result s.regs.params s.source))
  fits : ∀ p src, FitsDestination p (result p src).bytes

variable {run : State → Host.Outcome State Fault Refusal}

/-- A command that runs checks and ends in a value reads no source byte (R125, R156). -/
theorem exists_endsBy_of_value (result : Params → CmdResult)
    (hvalue : ∀ p, ∃ checks v, result p = valueResult checks v)
    (h : ∀ s, run s = .next (s.complete (result s.regs.params))) : ∃ result, EndsBy run result :=
  ⟨fun p _ => result p, h, fun p _ => by
    obtain ⟨checks, v, hr⟩ := hvalue p
    rw [hr, bytes_valueResult]
    exact fitsDestination_nil p⟩

/-- A generic `.ADDR` (R125). -/
theorem exists_endsBy_of_addr (family : Params → List Check) (w h : Params → Nat) (A : Params → Nat → Nat → Nat)
    (hrun : ∀ s, run s = .next (s.complete
      (genericAddr s.regs.params (family s.regs.params) (w s.regs.params) (h s.regs.params) (A s.regs.params)))) :
    ∃ result, EndsBy run result :=
  exists_endsBy_of_value (fun p => genericAddr p (family p) (w p) (h p) (A p)) (fun _ => ⟨_, _, rfl⟩) hrun

/-- A remap command, whose buffer checks are for the length of its output (R126). -/
theorem exists_endsBy_of_remap (before after : Params → List Check) (srcLen outLen : Params → Nat)
    (out : Params → List Byte → List Byte) (hlen : ∀ p src, (out p src).length = outLen p)
    (h : ∀ s, run s = .next (s.complete (remapResult
      (before s.regs.params ++ bufferChecks s.regs.params (srcLen s.regs.params) (outLen s.regs.params)
        ++ after s.regs.params) (out s.regs.params s.source)))) :
    ∃ result, EndsBy run result :=
  ⟨fun p src => remapResult (before p ++ bufferChecks p (srcLen p) (outLen p) ++ after p) (out p src), h,
    fun p src => remapResult_fits (srcLen := srcLen p) fun c hc => by
      rw [hlen] at hc
      simp [hc]⟩

/-- A generic `.UNSWZ` (R123). -/
theorem exists_endsBy_of_unswz (family : Params → List Check) (lay : Params → Layout)
    (h : ∀ s, run s = .next (s.complete (genericUnswz s (family s.regs.params) (lay s.regs.params)))) :
    ∃ result, EndsBy run result :=
  exists_endsBy_of_remap family (fun _ => []) (fun p => (lay p).swzLen) (fun p => (lay p).linLen)
    (fun p => unswizzle 0 (lay p)) (fun p => length_unswizzle 0 (lay p))
    (fun s => by rw [h s, genericUnswz, List.append_nil])

/-- A generic `.SWZ` (R124). -/
theorem exists_endsBy_of_swz (family : Params → List Check) (lay : Params → Layout)
    (h : ∀ s, run s = .next (s.complete (genericSwz s (family s.regs.params) (lay s.regs.params)))) :
    ∃ result, EndsBy run result :=
  exists_endsBy_of_remap family (fun _ => []) (fun p => (lay p).linLen) (fun p => (lay p).swzLen)
    (fun p => swizzle 0 (lay p)) (fun p => length_swizzle 0 (lay p))
    (fun s => by rw [h s, genericSwz, List.append_nil])

/-- The byte swap leaves the lengths of an X360 remap as the layout gives them (R222, R225). -/
theorem exists_endsBy_x360Unswz : ∃ result, EndsBy (exec .x360Unswz) result :=
  exists_endsBy_of_remap (fun p => x360SwapCheck p :: x360Checks p) (fun _ => []) (fun p => (x360Layout p).swzLen)
    (fun p => (x360Layout p).linLen) (fun p src => unswizzle 0 (x360Layout p) (swapBytes p.swapUnit.toNat src))
    (fun _ _ => length_unswizzle ..) (fun _ => rfl)

theorem exists_endsBy_x360Swz : ∃ result, EndsBy (exec .x360Swz) result :=
  exists_endsBy_of_remap (fun p => x360SwapCheck p :: x360Checks p) (fun _ => []) (fun p => (x360Layout p).linLen)
    (fun p => (x360Layout p).swzLen) (fun p src => swapBytes p.swapUnit.toNat (swizzle 0 (x360Layout p) src))
    (fun _ _ => by rw [length_swapBytes, length_swizzle]) (fun _ => rfl)

/-- The OPEN functions of PS2.4 a command's selector chooses (R272). -/
def ps24Selected (p : Params) : Ps24Functions := ps24Open p.ps2SwizzleType.toNat

/-- Both buffers of a PS2.4 remap hold `N / 2` bytes (R271). -/
theorem exists_endsBy_ps24Unswz : ∃ result, EndsBy (exec .ps24Unswz) result :=
  exists_endsBy_of_remap (fun p => ps24Checks (ps24Selected p) p) (fun p => [ps24RangeCheck (ps24Selected p) p])
    (fun p => ps24Texels p / 2) (fun p => ps24Texels p / 2)
    (fun p src => ofNibbles (unswizzle 0 (ps24Layout (ps24Selected p) p) (toNibbles src)))
    (fun p _ => by
      rw [length_ofNibbles, length_unswizzle]
      simp [Layout.linLen, ps24Layout, gridLayout, ps24Texels])
    (fun _ => rfl)

theorem exists_endsBy_ps24Swz : ∃ result, EndsBy (exec .ps24Swz) result :=
  exists_endsBy_of_remap (fun p => ps24Checks (ps24Selected p) p) (fun p => [ps24RangeCheck (ps24Selected p) p])
    (fun p => ps24Texels p / 2) (fun p => ps24Texels p / 2)
    (fun p src => ofNibbles (swizzle 0 (ps24Layout (ps24Selected p) p) (toNibbles src)))
    (fun p _ => by rw [length_ofNibbles, length_swizzle]; rfl)
    (fun _ => rfl)

/-- The value of the OPEN `PS5_TILE` a PS5 command's registers name (R237). -/
def ps5Selected (p : Params) : Option Ps5Tile := Config.ps5Tile p.unitBytes

/-- The row of the OPEN format table a WIIU command's registers name (R322). -/
def wiiuSelected (p : Params) : WiiuFormat := wiiuOpenFormat p.hwFmt

/-- R136: every command's end is a function of its parameter registers and source bytes. -/
theorem exists_endsBy_exec (i : Instr) : ∃ result, EndsBy (exec i) result := by
  cases i with
  | mortonUnswz => exact exists_endsBy_of_unswz mortonChecks mortonLayout fun _ => rfl
  | mortonSwz => exact exists_endsBy_of_swz mortonChecks mortonLayout fun _ => rfl
  | mortonAddr => exact exists_endsBy_of_addr mortonChecks Params.unitsW Params.unitsH mortonAddr fun _ => rfl
  | mortonIdx => exact exists_endsBy_of_value (idxResult · midx) (fun _ => ⟨_, _, rfl⟩) fun _ => rfl
  | mortonRUnswz => exact exists_endsBy_of_unswz mortonChecks mortonRLayout fun _ => rfl
  | mortonRSwz => exact exists_endsBy_of_swz mortonChecks mortonRLayout fun _ => rfl
  | mortonRAddr => exact exists_endsBy_of_addr mortonChecks Params.unitsW Params.unitsH mortonRAddr fun _ => rfl
  | mortonRIdx => exact exists_endsBy_of_value (idxResult · midxr) (fun _ => ⟨_, _, rfl⟩) fun _ => rfl
  | x360Unswz => exact exists_endsBy_x360Unswz
  | x360Swz => exact exists_endsBy_x360Swz
  | x360Addr => exact exists_endsBy_of_addr x360Checks Params.unitsW Params.unitsH x360Addr fun _ => rfl
  | ps4Unswz => exact exists_endsBy_of_unswz ps4Checks ps4Layout fun _ => rfl
  | ps4Swz => exact exists_endsBy_of_swz ps4Checks ps4Layout fun _ => rfl
  | ps4Addr => exact exists_endsBy_of_addr ps4Checks Params.unitsW Params.unitsH ps4Addr fun _ => rfl
  | ps5Unswz =>
    exact exists_endsBy_of_unswz (fun p => ps5Checks (ps5Selected p) p)
      (fun p => ps5Layout (ps5Selected p) p) fun _ => rfl
  | ps5Swz =>
    exact exists_endsBy_of_swz (fun p => ps5Checks (ps5Selected p) p)
      (fun p => ps5Layout (ps5Selected p) p) fun _ => rfl
  | ps5Addr =>
    exact exists_endsBy_of_value (fun p => ps5AddrResult (ps5Selected p) p) (fun _ => ⟨_, _, rfl⟩) fun _ => rfl
  | blkUnswz => exact exists_endsBy_of_unswz blkChecks blkLayout fun _ => rfl
  | blkSwz => exact exists_endsBy_of_swz blkChecks blkLayout fun _ => rfl
  | blkAddr => exact exists_endsBy_of_addr blkChecks Params.unitsW Params.unitsH blkAddr fun _ => rfl
  | n3dsUnswz => exact exists_endsBy_of_unswz n3dsChecks n3dsLayout fun _ => rfl
  | n3dsSwz => exact exists_endsBy_of_swz n3dsChecks n3dsLayout fun _ => rfl
  | n3dsAddr => exact exists_endsBy_of_addr n3dsChecks Params.unitsW Params.unitsH n3dsAddr fun _ => rfl
  | pspUnswz => exact exists_endsBy_of_unswz pspChecks pspLayout fun _ => rfl
  | pspSwz => exact exists_endsBy_of_swz pspChecks pspLayout fun _ => rfl
  | pspAddr => exact exists_endsBy_of_addr pspChecks pspRowBytes (fun p => p.height.toNat) pspAddr fun _ => rfl
  | ps28Unswz => exact exists_endsBy_of_unswz ps28Checks ps28Layout fun _ => rfl
  | ps28Swz => exact exists_endsBy_of_swz ps28Checks ps28Layout fun _ => rfl
  | ps28Addr =>
    exact exists_endsBy_of_addr ps28Checks (fun p => p.width.toNat) (fun p => p.height.toNat)
      (fun p => ps28Offset p.width.toNat) fun _ => rfl
  | ps24Unswz => exact exists_endsBy_ps24Unswz
  | ps24Swz => exact exists_endsBy_ps24Swz
  | ps24Addr =>
    exact exists_endsBy_of_value (fun p => ps24Addr (ps24Selected p) p) (fun _ => ⟨_, _, rfl⟩) fun _ => rfl
  | ps2PalUnswz => exact exists_endsBy_of_unswz palChecks palLayout fun _ => rfl
  | ps2PalSwz => exact exists_endsBy_of_swz palChecks palLayout fun _ => rfl
  | ps2PalAddr => exact exists_endsBy_of_value palAddr (fun _ => ⟨_, _, rfl⟩) fun _ => rfl
  | nswUnswz => exact exists_endsBy_of_unswz nswChecks nswLayout fun _ => rfl
  | nswSwz => exact exists_endsBy_of_swz nswChecks nswLayout fun _ => rfl
  | nswAddr => exact exists_endsBy_of_addr nswChecks Params.unitsW Params.unitsH nswAddr fun _ => rfl
  | wiiuUnswz =>
    exact exists_endsBy_of_unswz (fun p => wiiuChecks (wiiuSelected p) p ++ [wiiuSurfaceCheck (wiiuSelected p) p])
      (fun p => (wiiuSurface (wiiuSelected p) p).layout p.surfSize) fun _ => rfl
  | wiiuSwz =>
    exact exists_endsBy_of_swz (fun p => wiiuChecks (wiiuSelected p) p ++ [wiiuSurfaceCheck (wiiuSelected p) p])
      (fun p => (wiiuSurface (wiiuSelected p) p).layout p.surfSize) fun _ => rfl
  | wiiuAddr =>
    exact exists_endsBy_of_value (fun p => wiiuAddr (wiiuSelected p) p) (fun _ => ⟨_, _, rfl⟩) fun _ => rfl

/-- R91, R136: every command word's end is a function of the parameter registers and source bytes. -/
theorem exists_endsBy_runCommand (c : Word) : ∃ result, EndsBy (runCommand c) result := by
  cases hc : decode c with
  | ok i =>
    obtain ⟨result, hends, hfits⟩ := exists_endsBy_exec i
    exact ⟨result, fun s => (runCommand_of_decode hc).trans (hends s), hfits⟩
  | error e =>
    exact ⟨fun _ _ => .error (decodeErrorCode e), fun _ => runCommand_of_error hc, fun p _ => fitsDestination_nil p⟩

end Sys2Proof.Machine
end

section
/-! Two commands of different numbers, one after the other (R74, R390). -/

namespace Sys2Proof.Machine

variable {s t : State} {j k : Nat} {cj ck : Word} {fj fk : RegFile} {resj resk : Params → List Byte → CmdResult}

/-- How a command that runs on the registers `f` over memory `m` ends, where `result` says how it ends. -/
def RegFile.ending (f : RegFile) (result : Params → List Byte → CmdResult) (m : Memory) : CmdResult :=
  result f.params (m.readBytes f.params.srcBase f.params.srcLen)

/-- A command's ending reads its source bytes only (R62, R136). -/
theorem RegFile.ending_congr {f : RegFile} {result : Params → List Byte → CmdResult} {m m' : Memory}
    (h : ∀ x, f.params.srcBase ≤ x → x < f.params.srcBase + f.params.srcLen → m'.read x = m.read x) :
    f.ending result m' = f.ending result m := by
  unfold RegFile.ending
  rw [Memory.readBytes_congr fun i hi => h _ (by omega) (by omega)]

/-- What completing a command does to the registers of all numbers: only the addressed ones change (R384). -/
theorem State.complete_instances (hs : s.selected ≤ s.others.length) (r : CmdResult) :
    (s.complete r).instances = s.instances.set s.selected ⟨s.regs.params, r.results⟩ := by
  calc (s.complete r).instances
      = ({ s with regs := (s.complete r).regs } : State).instances := by
        simp only [State.instances, State.complete_others, State.complete_selected]
    _ = s.instances.set s.selected (s.complete r).regs := State.instances_with_regs hs _
    _ = s.instances.set s.selected ⟨s.regs.params, r.results⟩ := by rw [State.complete_regs]

/-- A word written to `CMD` of number `k` runs where `k` is addressed, whether it is a command or not (R25, R91). -/
theorem hostAccess_write_cmdWord (h : s.select k = some t) (c : Word) :
    hostAccess (.regWrite 4 (.reg k 0) c) s = runCommand c t :=
  registerAccess_of_wf (target := .reg k 0) (act := writeRegister c) rfl h (by decide) (by decide)

/-- What a command word written to `CMD` of number `k` does: it completes on the registers there, and stores its output
(R70, R390). -/
theorem hostAccess_write_cmd_effect (hs : s.selected ≤ s.others.length) (hf : s.instances[k]? = some fk)
    (hres : EndsBy (runCommand ck) resk) (h : hostAccess (.regWrite 4 (.reg k 0) ck) s = .next t) :
    t.selected ≤ t.others.length ∧ t.instances = s.instances.set k ⟨fk.params, (fk.ending resk s.mem).results⟩ ∧
      ∀ x, t.mem.read x = (s.mem.writeBytes fk.params.dstBase (fk.ending resk s.mem).bytes).read x := by
  obtain ⟨s', hsel⟩ := State.select_of_getElem? hf
  obtain ⟨hk, hinst, hregs, hlen, hle, hmem, -, -⟩ := State.select_spec hs hsel
  obtain rfl : s'.regs = fk := Option.some.inj (hregs.symm.trans hf)
  have hs' : s'.selected ≤ s'.others.length := by omega
  have hending : resk s'.regs.params s'.source = s'.regs.ending resk s.mem := by rw [← hmem]; rfl
  obtain rfl : s'.complete (s'.regs.ending resk s.mem) = t := by
    rw [hostAccess_write_cmdWord hsel, hres.ends s', hending] at h
    exact Host.Outcome.next.inj h
  refine ⟨by simpa using hs', ?_, fun x => ?_⟩
  · rw [State.complete_instances hs', hinst, hk]
  · rw [State.complete_read, hmem]

/-- The destination region of `f` (`DST_CAP` bytes from `DST_BASE`) meets no byte of the source range of `g`. -/
def RegFile.SparesSource (f g : RegFile) : Prop :=
  ∀ x, f.params.dstBase ≤ x → x < f.params.dstBase + f.params.dstCap →
    ¬ (g.params.srcBase ≤ x ∧ x < g.params.srcBase + g.params.srcLen)

/-- Storing an output leaves every byte outside the destination region (R63, R66). -/
theorem read_writeBytes_of_outside_region {m : Memory} {p : Params} {out : List Byte} {x : Nat}
    (hfits : FitsDestination p out) (hx : ¬ (p.dstBase ≤ x ∧ x < p.dstBase + p.dstCap)) :
    (m.writeBytes p.dstBase out).read x = m.read x := by
  obtain ⟨hcap, -⟩ := hfits
  exact Memory.read_writeBytes_of_outside (by omega)

/-- Two commands in turn, the first of which spares the second's source: both end as they would alone, and both outputs
are stored. -/
theorem hostAccess_write_cmd_twice {a b : State} (hs : s.selected ≤ s.others.length) (hjk : j ≠ k)
    (hj : s.instances[j]? = some fj) (hk : s.instances[k]? = some fk) (hresj : EndsBy (runCommand cj) resj)
    (hresk : EndsBy (runCommand ck) resk) (hspare : fj.SparesSource fk)
    (ha : hostAccess (.regWrite 4 (.reg j 0) cj) s = .next a)
    (hb : hostAccess (.regWrite 4 (.reg k 0) ck) a = .next b) :
    b.instances = (s.instances.set j ⟨fj.params, (fj.ending resj s.mem).results⟩).set k
        ⟨fk.params, (fk.ending resk s.mem).results⟩ ∧
      ∀ x, b.mem.read x = ((s.mem.writeBytes fj.params.dstBase (fj.ending resj s.mem).bytes).writeBytes
        fk.params.dstBase (fk.ending resk s.mem).bytes).read x := by
  obtain ⟨hsa, hinsta, hmema⟩ := hostAccess_write_cmd_effect hs hj hresj ha
  have hka : a.instances[k]? = some fk := by rw [hinsta, List.getElem?_set_ne hjk, hk]
  obtain ⟨-, hinstb, hmemb⟩ := hostAccess_write_cmd_effect hsa hka hresk hb
  have hending : fk.ending resk a.mem = fk.ending resk s.mem :=
    RegFile.ending_congr fun x hlo hhi => by
      rw [hmema x]
      exact read_writeBytes_of_outside_region (hresj.fits _ _) fun hx => hspare x hx.1 hx.2 ⟨hlo, hhi⟩
  rw [hending] at hinstb hmemb
  refine ⟨by rw [hinstb, hinsta], fun x => ?_⟩
  rw [hmemb x, Memory.read_writeBytes, Memory.read_writeBytes _ fk.params.dstBase, hmema x]

/-- Stores to ranges that share no address can be exchanged. -/
theorem Memory.read_writeBytes_comm (m : Memory) {a b : Nat} {bs cs : List Byte}
    (h : ∀ x, a ≤ x → x < a + bs.length → ¬ (b ≤ x ∧ x < b + cs.length)) (x : Nat) :
    ((m.writeBytes a bs).writeBytes b cs).read x = ((m.writeBytes b cs).writeBytes a bs).read x := by
  by_cases hx : a ≤ x ∧ x < a + bs.length
  · have hout := h x hx.1 hx.2
    simp only [Memory.read_writeBytes, if_pos hx, if_neg hout]
  · simp only [Memory.read_writeBytes, if_neg hx]

end Sys2Proof.Machine
end

section
/-! The statements about memory. -/

namespace Sys2Proof.Machine

/-- Settles O15: each command ends as it would alone, because the other spares its source, and the two outputs lie in
regions that share no byte. -/
theorem commandsOnDisjointBuffersCommute : Obligations.CommandsOnDisjointBuffersCommute := by
  intro s a b a' b' j k cj ck fj fk hs hjk hj hk hdisjoint hspare ha hb ha' hb'
  obtain ⟨resj, hresj⟩ := exists_endsBy_runCommand cj
  obtain ⟨resk, hresk⟩ := exists_endsBy_runCommand ck
  obtain ⟨hinst, hmem⟩ := hostAccess_write_cmd_twice hs hjk hj hk hresj hresk
    (fun x hlo hhi => (hdisjoint x hlo hhi).1) ha hb
  obtain ⟨hinst', hmem'⟩ := hostAccess_write_cmd_twice hs hjk.symm hk hj hresk hresj hspare ha' hb'
  obtain ⟨hcapj, -⟩ : FitsDestination fj.params (fj.ending resj s.mem).bytes := hresj.fits _ _
  obtain ⟨hcapk, -⟩ : FitsDestination fk.params (fk.ending resk s.mem).bytes := hresk.fits _ _
  constructor
  · intro x
    rw [hmem x, hmem' x]
    exact Memory.read_writeBytes_comm s.mem
      (fun y hlo hhi hy => (hdisjoint y hlo (by omega)).2 ⟨hy.1, by omega⟩) x
  · intro n
    rw [hinst, hinst', List.set_comm _ _ hjk]

/-- Settles O5: each of the three tests of a register access stops the access it is for. -/
theorem malformedRegisterAccessesStop : Obligations.MalformedRegisterAccessesStop := by
  intro s bytes offset target v
  refine ⟨fun hwidth => ?_, fun halign => ?_, fun halign hout => ?_⟩
  · exact ⟨registerAccess_of_width hwidth target s readRegister,
      registerAccess_of_width hwidth target s (writeRegister v)⟩
  · exact ⟨registerAccess_of_unaligned s.select_self halign readRegister,
      registerAccess_of_unaligned s.select_self halign (writeRegister v)⟩
  · exact ⟨registerAccess_of_outside s.select_self halign hout readRegister,
      registerAccess_of_outside s.select_self halign hout (writeRegister v)⟩

/-- Settles O16: a host store is a store of one byte, over the same registers. -/
theorem hostMemoryAccesses : Obligations.HostMemoryAccesses := by
  intro s x v
  refine ⟨⟨{ s with mem := s.mem.writeBytes x.toNat [v] }, rfl, ?_, ?_, rfl, rfl⟩, rfl⟩
  · exact Memory.read_writeByte_self s.mem x.toNat v
  · exact fun a ha => Memory.read_writeByte_of_ne s.mem v ha

end Sys2Proof.Machine
end

section
/-! The decoder and the encoder, field by field of the command word (R90 to R94). -/

namespace Sys2Proof

/-! ## The fields of a word -/

/-- R90: OPC, FN and the reserved bits are all of a word. -/
theorem word_eq_of_fields {c d : Word} (hreserved : wordReserved c = wordReserved d) (hopc : wordOpc c = wordOpc d)
    (hfn : wordFn c = wordFn d) : c = d := by
  simp only [wordReserved, wordOpc, wordFn] at hreserved hopc hfn
  apply BitVec.eq_of_toNat_eq
  omega

theorem wordFn_lt (c : Word) : wordFn c < 4 := Nat.mod_lt _ (by decide)

/-! ## Operation codes (R92) -/

/-- The remappers, in the order of R92. -/
def Remapper.all : List Remapper :=
  [.morton, .mortonR, .x360, .ps4, .ps5, .blk, .n3ds, .psp, .ps28, .ps24, .ps2Pal, .nsw, .wiiu]

theorem Remapper.mem_all (m : Remapper) : m ∈ Remapper.all := by
  cases m <;> decide

@[simp] theorem Remapper.ofCode_code (m : Remapper) : Remapper.ofCode m.code = some m := by
  cases m <;> rfl

/-- Each row of R92 reads the same both ways. -/
theorem Remapper.ofCode_eq_some_iff {n : Nat} {m : Remapper} : Remapper.ofCode n = some m ↔ n = m.code := by
  constructor
  · intro h
    unfold Remapper.ofCode at h
    split at h <;> cases h <;> rfl
  · rintro rfl
    exact m.ofCode_code

/-- The assigned values of OPC are the codes of the remappers. -/
theorem Remapper.mem_codes_iff {n : Nat} : n ∈ Remapper.all.map Remapper.code ↔ ∃ m, Remapper.ofCode n = some m := by
  simp only [List.mem_map, Remapper.mem_all, true_and, Remapper.ofCode_eq_some_iff, eq_comm (a := n)]

/-! ## Functions (R93) -/

@[simp] theorem Fn.ofCode_code (f : Fn) : Fn.ofCode f.code = f := by
  cases f <;> rfl

theorem Fn.code_ofCode {n : Nat} (h : n < 4) : (Fn.ofCode n).code = n := by
  interval_cases n <;> rfl

/-- The FN field of a word reads the same both ways, as it has no reserved value. -/
theorem Fn.ofCode_wordFn_eq_iff {c : Word} {f : Fn} : Fn.ofCode (wordFn c) = f ↔ wordFn c = f.code := by
  constructor
  · rintro rfl
    exact (Fn.code_ofCode (wordFn_lt c)).symm
  · intro h
    rw [h, f.ofCode_code]

/-! ## The opcode map (R94) -/

/-- What `EncodedFields` says of each command, over all of them. -/
theorem encodedFields : ∀ i : Instr, Laws.EncodedFields.Statement i
  | .mortonUnswz => Laws.EncodedFields.mortonUnswz
  | .mortonSwz => Laws.EncodedFields.mortonSwz
  | .mortonAddr => Laws.EncodedFields.mortonAddr
  | .mortonIdx => Laws.EncodedFields.mortonIdx
  | .mortonRUnswz => Laws.EncodedFields.mortonRUnswz
  | .mortonRSwz => Laws.EncodedFields.mortonRSwz
  | .mortonRAddr => Laws.EncodedFields.mortonRAddr
  | .mortonRIdx => Laws.EncodedFields.mortonRIdx
  | .x360Unswz => Laws.EncodedFields.x360Unswz
  | .x360Swz => Laws.EncodedFields.x360Swz
  | .x360Addr => Laws.EncodedFields.x360Addr
  | .ps4Unswz => Laws.EncodedFields.ps4Unswz
  | .ps4Swz => Laws.EncodedFields.ps4Swz
  | .ps4Addr => Laws.EncodedFields.ps4Addr
  | .ps5Unswz => Laws.EncodedFields.ps5Unswz
  | .ps5Swz => Laws.EncodedFields.ps5Swz
  | .ps5Addr => Laws.EncodedFields.ps5Addr
  | .blkUnswz => Laws.EncodedFields.blkUnswz
  | .blkSwz => Laws.EncodedFields.blkSwz
  | .blkAddr => Laws.EncodedFields.blkAddr
  | .n3dsUnswz => Laws.EncodedFields.n3dsUnswz
  | .n3dsSwz => Laws.EncodedFields.n3dsSwz
  | .n3dsAddr => Laws.EncodedFields.n3dsAddr
  | .pspUnswz => Laws.EncodedFields.pspUnswz
  | .pspSwz => Laws.EncodedFields.pspSwz
  | .pspAddr => Laws.EncodedFields.pspAddr
  | .ps28Unswz => Laws.EncodedFields.ps28Unswz
  | .ps28Swz => Laws.EncodedFields.ps28Swz
  | .ps28Addr => Laws.EncodedFields.ps28Addr
  | .ps24Unswz => Laws.EncodedFields.ps24Unswz
  | .ps24Swz => Laws.EncodedFields.ps24Swz
  | .ps24Addr => Laws.EncodedFields.ps24Addr
  | .ps2PalUnswz => Laws.EncodedFields.ps2PalUnswz
  | .ps2PalSwz => Laws.EncodedFields.ps2PalSwz
  | .ps2PalAddr => Laws.EncodedFields.ps2PalAddr
  | .nswUnswz => Laws.EncodedFields.nswUnswz
  | .nswSwz => Laws.EncodedFields.nswSwz
  | .nswAddr => Laws.EncodedFields.nswAddr
  | .wiiuUnswz => Laws.EncodedFields.wiiuUnswz
  | .wiiuSwz => Laws.EncodedFields.wiiuSwz
  | .wiiuAddr => Laws.EncodedFields.wiiuAddr

/-- The map of R94 names each command once. -/
theorem commandOf_eq_some_iff {m : Remapper} {f : Fn} {i : Instr} :
    commandOf m f = some i ↔ m = i.remapper ∧ f = i.fn := by
  constructor
  · intro h
    unfold commandOf at h
    split at h <;> cases h <;> exact ⟨rfl, rfl⟩
  · rintro ⟨rfl, rfl⟩
    obtain ⟨-, -, -, hcommand⟩ := encodedFields i
    exact hcommand

/-- R91 step 3: the gaps of the map are IDX at the operation codes other than 0x01 and 0x02. -/
theorem commandOf_eq_none_iff {m : Remapper} {f : Fn} :
    commandOf m f = none ↔ f.code = 3 ∧ m.code ≠ 0x01 ∧ m.code ≠ 0x02 := by
  cases f with
  | idx => cases m <;> simp [commandOf, Fn.code, Remapper.code]
  | unswz | swz | addr => cases m <;> simp [commandOf, Fn.code]

/-! ## The steps of the decoder (R91) -/

variable {c : Word} {i : Instr} {m : Remapper}

theorem decode_of_reserved (h : wordReserved c ≠ 0) : decode c = .error .reservedBits := by
  simp only [decode, if_pos h]

theorem decode_of_unassigned (hreserved : wordReserved c = 0) (h : Remapper.ofCode (wordOpc c) = none) :
    decode c = .error .unassignedOpc := by
  simp [decode, hreserved, h]

theorem decode_of_undefined (hreserved : wordReserved c = 0) (hopc : Remapper.ofCode (wordOpc c) = some m)
    (h : commandOf m (Fn.ofCode (wordFn c)) = none) : decode c = .error .idxUndefined := by
  simp [decode, hreserved, hopc, h]

theorem decode_of_command (hreserved : wordReserved c = 0) (hopc : Remapper.ofCode (wordOpc c) = some m)
    (h : commandOf m (Fn.ofCode (wordFn c)) = some i) : decode c = .ok i := by
  simp [decode, hreserved, hopc, h]

/-- A word that passes all steps has the fields of its command, and no other word passes. -/
theorem decode_eq_ok_iff :
    decode c = .ok i ↔ wordReserved c = 0 ∧ wordOpc c = i.remapper.code ∧ wordFn c = i.fn.code := by
  rw [← Remapper.ofCode_eq_some_iff, ← Fn.ofCode_wordFn_eq_iff]
  constructor
  · intro h
    by_cases hreserved : wordReserved c = 0
    · cases hopc : Remapper.ofCode (wordOpc c) with
      | none => cases (decode_of_unassigned hreserved hopc).symm.trans h
      | some m =>
        cases hcommand : commandOf m (Fn.ofCode (wordFn c)) with
        | none => cases (decode_of_undefined hreserved hopc hcommand).symm.trans h
        | some j =>
          cases (decode_of_command hreserved hopc hcommand).symm.trans h
          obtain ⟨rfl, hfn⟩ := commandOf_eq_some_iff.1 hcommand
          exact ⟨hreserved, rfl, hfn⟩
    · cases (decode_of_reserved hreserved).symm.trans h
  · rintro ⟨hreserved, hopc, hfn⟩
    exact decode_of_command hreserved hopc (commandOf_eq_some_iff.2 ⟨rfl, hfn⟩)

/-- R94: the fields of a command's word are zero, the remapper's code and the function's code. -/
theorem eq_encode_iff :
    c = encode i ↔ wordReserved c = 0 ∧ wordOpc c = i.remapper.code ∧ wordFn c = i.fn.code := by
  obtain ⟨hreserved, hopc, hfn, -⟩ := encodedFields i
  constructor
  · rintro rfl
    exact ⟨hreserved, hopc, hfn⟩
  · rintro ⟨hreserved', hopc', hfn'⟩
    exact word_eq_of_fields (hreserved'.trans hreserved.symm) (hopc'.trans hopc.symm) (hfn'.trans hfn.symm)

@[simp] theorem decode_encode (i : Instr) : decode (encode i) = .ok i := decode_eq_ok_iff.2 (eq_encode_iff.1 rfl)

end Sys2Proof
end

section
/-! The statements about command words. -/

namespace Sys2Proof.Machine

/-- R91: a word the decoder rejects ends the command in the error of the step that fails. -/
theorem hostAccess_write_rejected {s : State} {c : Word} {e : DecodeError} (h : decode c = .error e) :
    ∃ t, hostAccess (.regWrite 4 (.reg s.selected 0) c) s = .next t ∧ ErrorEffect s t (decodeErrorCode e) := by
  refine ⟨s.raise (decodeErrorCode e), ?_, s.raise_effect _⟩
  rw [hostAccess_write_cmdWord s.select_self, runCommand_of_error h]

/-- Settles O2: to decode to a command and to be its encoding both mean to have its fields. -/
theorem decodeAndEncodeAgree : Obligations.DecodeAndEncodeAgree :=
  fun _ _ => decode_eq_ok_iff.trans eq_encode_iff.symm

/-- Settles O1: one rule of the decoder for each clause; the codes the statement lists are those of `Remapper.all`. -/
theorem commandWordsFollowTheDecodeOrder : Obligations.CommandWordsFollowTheDecodeOrder := by
  intro c s reserved opc fn codes written
  have hcodes : ∀ {n}, n ∈ codes ↔ ∃ m, Remapper.ofCode n = some m := Remapper.mem_codes_iff
  have hundefined : ∀ {m}, Remapper.ofCode opc = some m →
      (commandOf m (Fn.ofCode (wordFn c)) = none ↔ fn = 3 ∧ opc ≠ 0x01 ∧ opc ≠ 0x02) := by
    intro m hm
    rw [commandOf_eq_none_iff, Fn.code_ofCode (wordFn_lt c), ← Remapper.ofCode_eq_some_iff.1 hm]
    rfl
  refine ⟨fun hreserved => ?_, fun hreserved hopc => ?_, fun hreserved hopc hfn hne1 hne2 => ?_,
    fun hreserved hopc hidx => ?_⟩
  · exact hostAccess_write_rejected (decode_of_reserved hreserved)
  · have hnone : Remapper.ofCode opc = none := Option.eq_none_iff_forall_ne_some.2 fun m hm => hopc (hcodes.2 ⟨m, hm⟩)
    exact hostAccess_write_rejected (decode_of_unassigned hreserved hnone)
  · obtain ⟨m, hm⟩ := hcodes.1 hopc
    exact hostAccess_write_rejected (decode_of_undefined hreserved hm ((hundefined hm).2 ⟨hfn, hne1, hne2⟩))
  · obtain ⟨m, hm⟩ := hcodes.1 hopc
    have hdefined : commandOf m (Fn.ofCode (wordFn c)) ≠ none := fun hnone => by
      obtain ⟨hfn, hne1, hne2⟩ := (hundefined hm).1 hnone
      exact (hidx hfn).elim hne1 hne2
    obtain ⟨i, hi⟩ := Option.ne_none_iff_exists'.1 hdefined
    have hdecode : decode c = .ok i := decode_of_command hreserved hm hi
    obtain ⟨-, hopci, hfni⟩ := decode_eq_ok_iff.1 hdecode
    exact ⟨i, hopci.symm, hfni.symm, hostAccess_write_cmd s.select_self hdecode⟩

/-- Settles O3: each word is the encoding of the command it is listed with. -/
theorem tableWordsDecode : Obligations.TableWordsDecode :=
  ⟨decode_encode .mortonIdx, decode_encode .mortonRSwz, decode_encode .x360Addr, decode_encode .ps4Unswz,
    decode_encode .ps5Swz, decode_encode .blkAddr, decode_encode .n3dsUnswz, decode_encode .pspSwz,
    decode_encode .ps28Addr, decode_encode .ps24Unswz, decode_encode .ps2PalSwz, decode_encode .nswAddr,
    decode_encode .wiiuUnswz⟩

end Sys2Proof.Machine
end

section
/-! Swizzling a buffer and unswizzling it again, over any layout that is placed and disjoint (R121, R132, R133). -/

namespace Sys2Proof.Machine

variable {α : Type}

/-- Buffers of one length with the same elements are equal. -/
theorem buffer_ext (zero : α) {l z : List α} (hlen : l.length = z.length)
    (h : ∀ j, j < z.length → l.getD j zero = z.getD j zero) : l = z := by
  refine List.ext_getElem hlen fun j hl hz => ?_
  have hj := h j hz
  rwa [List.getD_eq_getElem _ _ hl, List.getD_eq_getElem _ _ hz] at hj

/-- R120: every position of the linear buffer is one byte of one unit. -/
theorem Layout.exists_unit_of_lt_linLen {lay : Layout} {j : Nat} (h : j < lay.linLen) :
    ∃ i k, i < lay.count ∧ k < lay.unit ∧ j = i * lay.unit + k := by
  have hunit : 0 < lay.unit := Nat.pos_of_ne_zero fun h0 => by simp [Layout.linLen, h0] at h
  refine ⟨j / lay.unit, j % lay.unit, Nat.div_lt_of_lt_mul ?_, Nat.mod_lt _ hunit, (Nat.div_add_mod' _ _).symm⟩
  rwa [Nat.mul_comm]

variable (zero : α) {lay : Layout}

/-- R132: every element is found again where `.SWZ` put it. -/
theorem unswizzle_swizzle (hp : lay.Placed) (ha : lay.Apart) {l : List α} (hl : l.length = lay.linLen) :
    unswizzle zero lay (swizzle zero lay l) = l := by
  refine buffer_ext zero (by rw [length_unswizzle, hl]) fun j hj => ?_
  obtain ⟨i, k, hi, hk, rfl⟩ := Layout.exists_unit_of_lt_linLen (hl ▸ hj)
  rw [getD_unswizzle zero _ _ hi hk, getD_swizzle zero _ _ hp ha hi hk]

/-- R132 the other way: an element a unit covers comes back to its position. -/
theorem getD_swizzle_unswizzle (hp : lay.Placed) (ha : lay.Apart) (z : List α) {j : Nat} (h : lay.Covers j) :
    (swizzle zero lay (unswizzle zero lay z)).getD j zero = z.getD j zero := by
  obtain ⟨i, hi, hlo, hhi⟩ := h
  obtain ⟨k, rfl⟩ := Nat.exists_eq_add_of_le hlo
  have hk : k < lay.unit := by omega
  rw [getD_swizzle zero _ _ hp ha hi hk, getD_unswizzle zero _ _ hi hk]

/-- Settles O51: each position belongs to one unit, and a unit goes and comes by the same address. -/
theorem roundTripOfEveryPlacedLayout : Obligations.RoundTripOfEveryPlacedLayout := by
  intro lay hp ha
  refine ⟨fun l hl => unswizzle_swizzle 0 hp ha hl, fun z hz => ⟨length_swizzle .., fun j _ hj => ?_, fun j _ hj => ?_,
    fun hdense => buffer_ext 0 (by rw [length_swizzle, hz]) fun j hj => ?_⟩⟩
  · exact getD_swizzle_unswizzle 0 hp ha z hj
  · exact getD_swizzle_of_uncovered 0 lay _ hj
  · exact getD_swizzle_unswizzle 0 hp ha z (hdense j (hz ▸ hj))

end Sys2Proof.Machine
end

section
/-! A command's outcome and what it reads (R136). -/

namespace Sys2Proof.Machine

/-- Completed commands with the same parameter registers and the same end store the same bytes. -/
theorem State.complete_read_output {s s' : State} (hparams : s'.regs.params = s.regs.params) (r : CmdResult) {k : Nat}
    (hk : k < r.bytes.length) :
    (s'.complete r).mem.read (s.regs.params.dstBase + k) = (s.complete r).mem.read (s.regs.params.dstBase + k) := by
  rw [State.complete_read, State.complete_read, hparams, Memory.read_writeBytes_of_mem hk,
    Memory.read_writeBytes_of_mem hk]

/-- R27: what `OUT_LEN` holds after a command is the number of bytes it has stored. -/
theorem CmdResult.outLen_results {r : CmdResult} (h : r.bytes.length < 2 ^ 64) :
    pair r.results.outLenHi r.results.outLenLo = r.bytes.length := by
  cases r <;> exact pair_halves h

theorem FitsDestination.length_lt {p : Params} {out : List Byte} (h : FitsDestination p out) :
    out.length < 2 ^ 64 := by
  obtain ⟨hcap, -⟩ := h
  exact hcap.trans_lt (pair_lt _ _)

/-- Settles O13: a command's end is a function of its parameter registers and source bytes, which agree. -/
theorem outcomeDependsOnItsInputsOnly : Obligations.OutcomeDependsOnItsInputsOnly := by
  intro i s s' hparams hsource
  obtain ⟨result, hends, hfits⟩ := exists_endsBy_exec i
  have hsrc : s'.source = s.source := by
    unfold State.source
    rw [hparams]
    exact Memory.readBytes_congr hsource
  refine ⟨_, _, hends s, hends s', ?_, fun k hk => ?_⟩
  · rw [State.complete_regs, State.complete_regs, hparams, hsrc]
  · rw [State.complete_regs, CmdResult.outLen_results (hfits _ _).length_lt] at hk
    rw [hparams, hsrc]
    exact State.complete_read_output hparams _ hk

end Sys2Proof.Machine
end

section
/-! Numberings of the places of an image, and the layouts they make (R121, R122). -/

namespace Sys2Proof.Machine

/-- `I` gives the places of a `w` by `h` rectangle different numbers below `n`. -/
structure Numbers (I : Nat → Nat → Nat) (w h n : Nat) : Prop where
  lt : ∀ x y, x < w → y < h → I x y < n
  inj : ∀ x y x' y', x < w → y < h → x' < w → y' < h → I x y = I x' y' → x = x' ∧ y = y'

/-- Two digits of a number in base `n`, the upper one of any size, can be read off it. -/
theorem digits_unique {n a b a' b' : Nat} (hb : b < n) (hb' : b' < n) (h : a * n + b = a' * n + b') :
    a = a' ∧ b = b' := by
  have hread : ∀ {a b : Nat}, b < n → (a * n + b) / n = a ∧ (a * n + b) % n = b := fun {a b} hlt =>
    (Nat.div_mod_unique (b.zero_le.trans_lt hlt)).2 ⟨by rw [Nat.mul_comm, Nat.add_comm], hlt⟩
  obtain ⟨hdiv, hmod⟩ := hread (a := a) hb
  obtain ⟨hdiv', hmod'⟩ := hread (a := a') hb'
  exact ⟨by rw [← hdiv, h, hdiv'], by rw [← hmod, h, hmod']⟩

/-- A number with an upper digit below `m` and a lower one below `n` is below `m * n`. -/
theorem digits_lt {m n a b : Nat} (ha : a < m) (hb : b < n) : a * n + b < m * n :=
  calc a * n + b < a * n + n := by omega
    _ = (a + 1) * n := (Nat.succ_mul a n).symm
    _ ≤ m * n := Nat.mul_le_mul_right n ha

variable {I : Nat → Nat → Nat} {w h n : Nat}

theorem Numbers.mono {w' h' : Nat} (hI : Numbers I w h n) (hw : w' ≤ w) (hh : h' ≤ h) : Numbers I w' h' n where
  lt x y hx hy := hI.lt x y (by omega) (by omega)
  inj x y x' y' hx hy hx' hy' := hI.inj x y x' y' (by omega) (by omega) (by omega) (by omega)

theorem Numbers.mul {B : Nat} (hI : Numbers I w h n) (hB : 0 < B) : Numbers (fun x y => I x y * B) w h (n * B) where
  lt x y hx hy := Nat.mul_lt_mul_of_pos_right (hI.lt x y hx hy) hB
  inj x y x' y' hx hy hx' hy' he := hI.inj x y x' y' hx hy hx' hy' (Nat.eq_of_mul_eq_mul_right hB he)

/-- The order of a linear image (R122). -/
theorem numbers_rowMajor (w h : Nat) : Numbers (fun x y => y * w + x) w h (w * h) where
  lt _ _ hx hy := grid_index_lt hx hy
  inj _ _ _ _ hx _ hx' _ he := (digits_unique hx hx' he).symm

/-- Between a multiple of `B` and a larger one there are `B` places. -/
theorem add_le_of_dvd_of_lt {B a l : Nat} (ha : B ∣ a) (hl : B ∣ l) (hlt : a < l) : a + B ≤ l :=
  Nat.le_of_lt_add_of_dvd (by omega) (Nat.dvd_add_self_right.2 ha) hl

/-- Units aligned to their size, at addresses that differ, are placed and apart. -/
theorem Numbers.grid_placed_apart {A : Nat → Nat → Nat} {B L : Nat} (hA : Numbers A w h L) (hL : B ∣ L)
    (haligned : ∀ x y, B ∣ A x y) : (gridLayout w h B L A).Placed ∧ (gridLayout w h B L A).Apart := by
  refine ⟨gridLayout_placed fun x y hx hy => add_le_of_dvd_of_lt (haligned x y) hL (hA.lt x y hx hy),
    gridLayout_apart fun x y x' y' hx hy hx' hy' hne => ?_⟩
  have hdiffer : A x y ≠ A x' y' := fun he => by
    obtain ⟨hxx, hyy⟩ := hA.inj x y x' y' hx hy hx' hy' he
    exact hne.elim (· hxx) (· hyy)
  exact (Nat.lt_or_gt_of_ne hdiffer).imp (add_le_of_dvd_of_lt (haligned x y) (haligned x' y'))
    (add_le_of_dvd_of_lt (haligned x' y') (haligned x y))

/-- The layout of units at the places a numbering gives them. -/
theorem Numbers.layout (hI : Numbers I w h n) {B : Nat} (hB : 0 < B) :
    (gridLayout w h B (n * B) fun x y => I x y * B).Placed ∧
      (gridLayout w h B (n * B) fun x y => I x y * B).Apart :=
  (hI.mul hB).grid_placed_apart (Nat.dvd_mul_left B n) fun _ _ => Nat.dvd_mul_left B _

/-- The layout of units of one byte (R190, R261, R270). -/
theorem Numbers.byteLayout (hI : Numbers I w h n) : (gridLayout w h 1 n I).Placed ∧ (gridLayout w h 1 n I).Apart :=
  hI.grid_placed_apart (Nat.one_dvd n) fun _ _ => Nat.one_dvd _

/-! ## Whole tiles in rows (R171) -/

/-- The number of place `(x, y)` in an image of whole tiles, `cols` in a row, with `inner` numbering each tile. -/
def tileIndex (TW TH cols : Nat) (inner : Nat → Nat → Nat) (x y : Nat) : Nat :=
  (y / TH * cols + x / TW) * (TW * TH) + inner (x % TW) (y % TH)

/-- Tiles that are numbered inside number their image. -/
theorem Numbers.tile {TW TH cols rows : Nat} {inner : Nat → Nat → Nat} (hin : Numbers inner TW TH (TW * TH)) :
    Numbers (tileIndex TW TH cols inner) (cols * TW) (rows * TH) (rows * cols * (TW * TH)) := by
  have htile : ∀ {x y}, x < cols * TW → y < rows * TH →
      x / TW < cols ∧ x % TW < TW ∧ y / TH < rows ∧ y % TH < TH := fun {x y} hx hy => by
    have hTW : 0 < TW := Nat.pos_of_ne_zero fun h0 => by simp [h0] at hx
    have hTH : 0 < TH := Nat.pos_of_ne_zero fun h0 => by simp [h0] at hy
    exact ⟨(Nat.div_lt_iff_lt_mul hTW).2 hx, Nat.mod_lt _ hTW, (Nat.div_lt_iff_lt_mul hTH).2 hy, Nat.mod_lt _ hTH⟩
  constructor
  · intro x y hx hy
    obtain ⟨hcol, hxi, hrow, hyi⟩ := htile hx hy
    exact digits_lt (digits_lt hrow hcol) (hin.lt _ _ hxi hyi)
  · intro x y x' y' hx hy hx' hy' he
    obtain ⟨hcol, hxi, -, hyi⟩ := htile hx hy
    obtain ⟨hcol', hxi', -, hyi'⟩ := htile hx' hy'
    obtain ⟨htiles, hinner⟩ := digits_unique (hin.lt _ _ hxi hyi) (hin.lt _ _ hxi' hyi') he
    obtain ⟨hrows, hcols⟩ := digits_unique hcol hcol' htiles
    obtain ⟨hxmod, hymod⟩ := hin.inj _ _ _ _ hxi hyi hxi' hyi' hinner
    exact ⟨by rw [← Nat.div_add_mod x TW, hcols, hxmod, Nat.div_add_mod],
      by rw [← Nat.div_add_mod y TH, hrows, hymod, Nat.div_add_mod]⟩

/-! ## Rounding up (R8) -/

theorem le_ceilDiv_mul (a : Nat) {b : Nat} (hb : 0 < b) : a ≤ ceilDiv a b * b := by
  have hdiv := Nat.div_add_mod' (a + b - 1) b
  have hmod := Nat.mod_lt (a + b - 1) hb
  unfold ceilDiv
  omega

end Sys2Proof.Machine
end

section
/-! Which commands can end in OOB 0x01 (R134, R272, R372). -/

namespace Sys2Proof.Machine

/-! ## Commands without a range check -/

/-- None of these checks raises OOB 0x01. -/
def noneRaisesOob (checks : List Check) : Bool := checks.all fun c => c.err != .oob 0x01

theorem firstError_ne_oob {checks : List Check} (h : noneRaisesOob checks = true) :
    firstError checks ≠ some (.oob 0x01) := fun he => by
  obtain ⟨c, hc, hoob⟩ := List.mem_map.1 (firstError_mem he)
  exact absurd hoob (by simpa using List.all_eq_true.1 h c hc)

theorem firstError_of_remapResult {checks : List Check} {out : List Byte} {e : CmdError}
    (h : remapResult checks out = .error e) : firstError checks = some e := by
  rcases remapResult_cases checks out with ⟨e', he, hr⟩ | ⟨-, hr⟩
  · rw [hr] at h
    rwa [← CmdResult.error.inj h]
  · cases hr.symm.trans h

theorem firstError_of_valueResult {checks : List Check} {v : Nat} {e : CmdError}
    (h : valueResult checks v = .error e) : firstError checks = some e := by
  rcases valueResult_cases checks v with ⟨e', he, hr⟩ | ⟨-, hr⟩
  · rw [hr] at h
    rwa [← CmdResult.error.inj h]
  · cases hr.symm.trans h

theorem remapResult_ne_oob {checks : List Check} {out : List Byte} (h : noneRaisesOob checks = true) :
    remapResult checks out ≠ .error (.oob 0x01) := fun he => firstError_ne_oob h (firstError_of_remapResult he)

theorem valueResult_ne_oob {checks : List Check} {v : Nat} (h : noneRaisesOob checks = true) :
    valueResult checks v ≠ .error (.oob 0x01) := fun he => firstError_ne_oob h (firstError_of_valueResult he)

theorem noneRaisesOob_append {cs ds : List Check} :
    noneRaisesOob (cs ++ ds) = (noneRaisesOob cs && noneRaisesOob ds) := List.all_append

/-- Stage 4 of R126 has errors of class InvalidGeometry only. -/
@[simp] theorem noneRaisesOob_bufferChecks (p : Params) (srcLen outLen : Nat) :
    noneRaisesOob (bufferChecks p srcLen outLen) = true := rfl

theorem genericUnswz_ne_oob {s : State} {family : List Check} {lay : Layout} (h : noneRaisesOob family = true) :
    genericUnswz s family lay ≠ .error (.oob 0x01) :=
  remapResult_ne_oob (by rw [noneRaisesOob_append, h, noneRaisesOob_bufferChecks, Bool.and_self])

theorem genericSwz_ne_oob {s : State} {family : List Check} {lay : Layout} (h : noneRaisesOob family = true) :
    genericSwz s family lay ≠ .error (.oob 0x01) :=
  remapResult_ne_oob (by rw [noneRaisesOob_append, h, noneRaisesOob_bufferChecks, Bool.and_self])

/-- R134: the commands of the families without a range check (R272) never end in OOB 0x01. -/
theorem exec_ends_without_oob {i : Instr} (hi : i ∉ [.ps24Unswz, .ps24Swz, .ps24Addr]) (s : State) :
    ∃ r, exec i s = .next (s.complete r) ∧ r ≠ .error (.oob 0x01) := by
  cases i
  case ps24Unswz | ps24Swz | ps24Addr => simp at hi
  case mortonUnswz | mortonRUnswz | ps4Unswz | ps5Unswz | blkUnswz | n3dsUnswz | pspUnswz | ps28Unswz | ps2PalUnswz
      | nswUnswz | wiiuUnswz => exact ⟨_, rfl, genericUnswz_ne_oob rfl⟩
  case mortonSwz | mortonRSwz | ps4Swz | ps5Swz | blkSwz | n3dsSwz | pspSwz | ps28Swz | ps2PalSwz | nswSwz
      | wiiuSwz => exact ⟨_, rfl, genericSwz_ne_oob rfl⟩
  case x360Unswz | x360Swz => exact ⟨_, rfl, remapResult_ne_oob rfl⟩
  case mortonAddr | mortonIdx | mortonRAddr | mortonRIdx | x360Addr | ps4Addr | ps5Addr | blkAddr | n3dsAddr | pspAddr
      | ps28Addr | ps2PalAddr | nswAddr | wiiuAddr => exact ⟨_, rfl, valueResult_ne_oob rfl⟩

/-- R381: no other error leaves the word of OOB 0x01. The two class bits tell the classes apart, and bits [15:8] the
detail codes. -/
theorem errorWord_eq_oob {e : CmdError} (h : errorWord e = 0x00000133) : e = .oob 0x01 := by
  have hbit : ∀ k, (errorWord e).getLsbD k = (0x00000133 : Word).getLsbD k := fun k => by rw [h]
  have hdetail : ∀ d : BitVec 8, errorWord (.oob d) = 0x00000133 → d = 0x01 := by decide
  cases e with
  | ig d => simpa [errorWord] using hbit 5
  | up d => simpa [errorWord] using hbit 4
  | oob d => rw [hdetail d h]

/-- The word of OOB 0x01 in `STATUS` means that the command has raised it. -/
theorem State.complete_status_ne_oob {s : State} {r : CmdResult} (h : r ≠ .error (.oob 0x01)) :
    (s.complete r).regs.results.status ≠ 0x00000133 := by
  rw [State.complete_regs]
  cases r with
  | error e => 
    intro hstatus
    rw [CmdResult.results, results_of_error] at hstatus
    exact h (congrArg _ (errorWord_eq_oob hstatus))
  | value v => exact (by decide : statusOk ≠ 0x00000133)
  | output out => exact (by decide : statusOk ≠ 0x00000133)

/-! ## PS2.4 with functions that keep R272 -/

variable {f : Ps24Functions} {p : Params}

theorem numbers_of_ps24Bijective {addr : Nat → Nat → Nat → Nat → Nat} {W H : Nat}
    (h : Config.Ps24Bijective addr W H) : Numbers (fun x y => addr x y W H) W H (W * H) where
  lt := h.1
  inj := h.2

/-- The functions are bijections at every geometry they allow (R272 property 1). -/
def Ps24Functions.Lawful (f : Ps24Functions) : Prop :=
  ∀ W H, f.ok W H = true → Config.Ps24Bijective f.addr W H

/-- The checks before the range check let a geometry pass only where the functions allow it (R271). -/
theorem Ps24Functions.Lawful.bijective (hf : f.Lawful) (hpass : firstError (ps24Checks f p) = none) :
    Config.Ps24Bijective f.addr p.width.toNat p.height.toNat := by
  refine hf _ _ ?_
  have hok := firstError_eq_none.1 hpass ⟨ps24Texels p % 2 != 0 || !f.ok p.width.toNat p.height.toNat, .ig 0x06⟩
    (by simp [ps24Checks])
  simp only [Bool.or_eq_false_iff, Bool.not_eq_false'] at hok
  exact hok.2

/-- R134: with such functions the range check finds nothing. -/
theorem Ps24Functions.Lawful.rangeCheck_passes (hf : f.Lawful) (hpass : firstError (ps24Checks f p) = none) :
    (ps24RangeCheck f p).fails = false := by
  obtain ⟨hplaced, hapart⟩ := (numbers_of_ps24Bijective (hf.bijective hpass)).byteLayout
  have hp : (ps24Layout f p).placedTest = true := (Layout.placedTest_iff _).2 hplaced
  have ha : (ps24Layout f p).apartTest = true := (Layout.apartTest_iff _).2 hapart
  simp [ps24RangeCheck, hp, ha]

/-- Before the range check only the family's checks and those of the buffers can fail, and after them it passes. -/
theorem Ps24Functions.Lawful.remapResult_ne_oob (hf : f.Lawful) (out : List Byte) :
    remapResult (ps24RemapChecks f p) out ≠ .error (.oob 0x01) := by
  intro he
  have herror := firstError_of_remapResult he
  rw [ps24RemapChecks, firstError_append] at herror
  cases hpass : firstError (ps24Checks f p ++ bufferChecks p (ps24Texels p / 2) (ps24Texels p / 2)) with
  | some e =>
    rw [hpass, Option.some_or] at herror
    exact firstError_ne_oob rfl (hpass.trans herror)
  | none =>
    have hfamily : firstError (ps24Checks f p) = none :=
      firstError_eq_none.2 fun c hc => firstError_eq_none.1 hpass c (List.mem_append_left _ hc)
    simp [hpass, firstError_cons, hf.rangeCheck_passes hfamily] at herror

/-- R276: the index of a texel in the image is below `N`. -/
theorem Ps24Functions.Lawful.addr_ne_oob (hf : f.Lawful) : ps24Addr f p ≠ .error (.oob 0x01) := by
  rcases ps24Addr_cases f p with ⟨e, he, hr⟩ | ⟨-, -, hr⟩ | ⟨-, -, -, hr⟩ | ⟨hpass, hin, -, hout, -⟩ | ⟨-, -, -, -, hr⟩
  · rw [hr]
    rintro ⟨⟩
    exact firstError_ne_oob rfl he
  · rw [hr]
    exact nofun
  · rw [hr]
    exact nofun
  · obtain ⟨hrange, -⟩ := hf.bijective hpass
    exact absurd (hrange _ _ hin.1 hin.2) (Nat.not_lt.2 hout)
  · rw [hr]
    exact nofun

/-- Settles O57: the other commands have no check that raises OOB 0x01, and with lawful functions the range checks of
PS2.4 pass wherever they run. -/
theorem outOfBoundsNeedsAFaultyFunction : Obligations.OutOfBoundsNeedsAFaultyFunction := by
  refine ⟨fun i s hi => ?_, fun f hf s => ⟨?_, ?_, ?_⟩⟩
  · obtain ⟨r, hexec, hr⟩ := exec_ends_without_oob hi s
    exact ⟨_, hexec, State.complete_status_ne_oob hr⟩
  · exact Ps24Functions.Lawful.remapResult_ne_oob hf _
  · exact Ps24Functions.Lawful.remapResult_ne_oob hf _
  · exact Ps24Functions.Lawful.addr_ne_oob hf

end Sys2Proof.Machine
end

section
/-! ILV as the weaving of two coordinates, bit by bit (R152). -/

namespace Sys2Proof.Machine

/-- The bits of `x` and `y` in turn, `x` first, where `x` has `a` bits and `y` has `b`. -/
def weave : Nat → Nat → Nat → Nat → Nat
  | 0, 0, _, _ => 0
  | a + 1, 0, x, y => x % 2 + 2 * weave a 0 (x / 2) y
  | 0, b + 1, x, y => y % 2 + 2 * weave 0 b x (y / 2)
  | a + 1, b + 1, x, y => x % 2 + 2 * (y % 2 + 2 * weave a b (x / 2) (y / 2))

theorem weave_lt (a b x y : Nat) : weave a b x y < 2 ^ (a + b) := by
  induction a, b, x, y using weave.induct with
  | case1 => simp [weave]
  | case2 a x y ih => simp only [weave, Nat.add_zero, Nat.pow_succ] at ih ⊢; omega
  | case3 b x y ih => simp only [weave, Nat.zero_add, Nat.pow_succ] at ih ⊢; omega
  | case4 a b x y ih =>
    rw [show a + 1 + (b + 1) = a + b + 1 + 1 by omega, Nat.pow_succ, Nat.pow_succ]
    simp only [weave]
    omega

/-- Both coordinates can be read off their weaving. -/
theorem weave_inj (a b x y : Nat) : ∀ x' y', x < 2 ^ a → y < 2 ^ b → x' < 2 ^ a → y' < 2 ^ b →
    weave a b x y = weave a b x' y' → x = x' ∧ y = y' := by
  induction a, b, x, y using weave.induct with
  | case1 => intro x' y' hx hy hx' hy' _; simp at hx hy hx' hy'; omega
  | case2 a x y ih =>
    intro x' y' hx hy hx' hy' he
    simp only [weave, Nat.pow_succ] at *
    obtain ⟨hxx, hyy⟩ := ih (x' / 2) y' (by omega) hy (by omega) hy' (by omega)
    exact ⟨by omega, hyy⟩
  | case3 b x y ih =>
    intro x' y' hx hy hx' hy' he
    simp only [weave, Nat.pow_succ] at *
    obtain ⟨hxx, hyy⟩ := ih x' (y' / 2) hx (by omega) hx' (by omega) (by omega)
    exact ⟨hxx, by omega⟩
  | case4 a b x y ih =>
    intro x' y' hx hy hx' hy' he
    simp only [weave, Nat.pow_succ] at *
    obtain ⟨hxx, hyy⟩ := ih (x' / 2) (y' / 2) (by omega) (by omega) (by omega) (by omega) (by omega)
    exact ⟨by omega, by omega⟩

theorem numbers_weave (a b : Nat) : Numbers (weave a b) (2 ^ a) (2 ^ b) (2 ^ a * 2 ^ b) where
  lt x y _ _ := Nat.pow_add 2 a b ▸ weave_lt a b x y
  inj x y x' y' hx hy hx' hy' he := weave_inj a b x y x' y' hx hy hx' hy' he

/-! ## The loop of R152 -/

/-- A block of the loop passes over a dimension with nothing left. -/
theorem Feed.put_one (x : Nat) (p : Built) : Feed.put ⟨2 ^ 0, x⟩ p = (⟨2 ^ 0, x⟩, p) := rfl

/-- A block of the loop places the low bit of a coordinate. -/
theorem Feed.put_pow_succ (a x : Nat) {t k : Nat} (ht : t < 2 ^ k) :
    Feed.put ⟨2 ^ (a + 1), x⟩ ⟨t, k⟩ = (⟨2 ^ a, x / 2⟩, ⟨t + 2 ^ k * (x % 2), k + 1⟩) := by
  have hmore : 1 < 2 ^ (a + 1) := Nat.one_lt_two_pow (by omega)
  have hhalf : 2 ^ (a + 1) >>> 1 = 2 ^ a := by rw [Nat.shiftRight_one, Nat.pow_succ]; omega
  have hbit : t ||| (x % 2) <<< k = t + 2 ^ k * (x % 2) := by
    rw [Nat.shiftLeft_eq, Nat.mul_comm, Nat.or_comm, ← Nat.two_pow_add_eq_or_of_lt ht,
      Nat.add_comm]
  simp [Feed.put, hmore, hhalf, hbit, Nat.shiftRight_one]

theorem gatherBits_succ (n : Nat) (a b : Feed) (p : Built) :
    gatherBits (n + 1) a b p = gatherBits n (a.put p).1 (b.put (a.put p).2).1 (b.put (a.put p).2).2 := rfl

/-- The loop weaves what remains of the coordinates above the bits already placed. -/
theorem gatherBits_eq_weave {n a b t k : Nat} (x y : Nat) (ha : a ≤ n) (hb : b ≤ n) (ht : t < 2 ^ k) :
    (gatherBits n ⟨2 ^ a, x⟩ ⟨2 ^ b, y⟩ ⟨t, k⟩).t = t + 2 ^ k * weave a b x y := by
  have hgrow : ∀ {t k : Nat} (c : Nat), t < 2 ^ k → t + 2 ^ k * (c % 2) < 2 ^ (k + 1) := fun {t k} c ht => by
    have hbit : 2 ^ k * (c % 2) ≤ 2 ^ k * 1 := Nat.mul_le_mul_left _ (by omega)
    rw [Nat.pow_succ]
    omega
  induction n generalizing a b x y t k with
  | zero =>
    obtain ⟨rfl, rfl⟩ : a = 0 ∧ b = 0 := by omega
    simp [gatherBits, weave]
  | succ n ih =>
    cases a with
    | zero =>
      cases b with
      | zero =>
        rw [gatherBits_succ, Feed.put_one, Feed.put_one, ih x y (by omega) (by omega) ht]
      | succ b =>
        rw [gatherBits_succ, Feed.put_one, Feed.put_pow_succ b y ht, ih x (y / 2) (by omega) (by omega) (hgrow y ht),
          weave, Nat.pow_succ]
        ring
    | succ a =>
      cases b with
      | zero =>
        rw [gatherBits_succ, Feed.put_pow_succ a x ht, Feed.put_one, ih (x / 2) y (by omega) (by omega) (hgrow x ht),
          weave, Nat.pow_succ]
        ring
      | succ b =>
        rw [gatherBits_succ, Feed.put_pow_succ a x ht, Feed.put_pow_succ b y (hgrow x ht),
          ih (x / 2) (y / 2) (by omega) (by omega) (hgrow y (hgrow x ht)), weave, Nat.pow_succ, Nat.pow_succ]
        ring

theorem ilv_eq_weave (a b x y : Nat) : ilv x y (2 ^ a) (2 ^ b) = weave a b x y := by
  unfold ilv mortonSteps
  rw [Nat.log2_two_pow, Nat.log2_two_pow, gatherBits_eq_weave x y (by omega) (by omega) (by omega), Nat.pow_zero,
    Nat.one_mul, Nat.zero_add]

/-- R152: ILVR is ILV with the coordinates exchanged. -/
theorem ilvr_eq_ilv (x y W H : Nat) : ilvr x y W H = ilv y x H W := by
  unfold ilvr ilv mortonSteps
  rw [Nat.add_comm]

/-- R153, for ILV. -/
theorem numbers_ilv (a b : Nat) : Numbers (fun x y => ilv x y (2 ^ a) (2 ^ b)) (2 ^ a) (2 ^ b) (2 ^ a * 2 ^ b) := by
  simp only [ilv_eq_weave]
  exact numbers_weave a b

/-- R153, for ILVR. -/
theorem numbers_ilvr (a b : Nat) : Numbers (fun x y => ilvr x y (2 ^ a) (2 ^ b)) (2 ^ a) (2 ^ b) (2 ^ a * 2 ^ b) where
  lt x y hx hy := by
    rw [ilvr_eq_ilv, Nat.mul_comm]
    exact (numbers_ilv b a).lt y x hy hx
  inj x y x' y' hx hy hx' hy' he := by
    rw [ilvr_eq_ilv, ilvr_eq_ilv] at he
    exact ((numbers_ilv b a).inj y x y' x' hy hx hy' hx' he).symm

theorem eq_two_pow_of_isPow2 {n : Nat} (h : isPow2 n = true) : n = 2 ^ n.log2 := by
  simpa [isPow2] using h

end Sys2Proof.Machine
end

section
/-! The tiled-Morton layout (R231, R232). -/

namespace Sys2Proof.Machine

theorem tmAddr_eq_index_mul (TW TH w h B x y : Nat) : tmAddr TW TH w h B x y = tmAddr TW TH w h 1 x y * B := by
  simp only [tmAddr, Nat.mul_one]

/-- The place of a unit inside its tile (R231): Morton order in a full tile, row-major in an edge tile. -/
def tmInner (TW TH cw th xi yi : Nat) : Nat :=
  if cw = TW ∧ th = TH then ilv xi yi TW TH else yi * cw + xi

/-- A tile's units take as many places as it has units (R231). -/
theorem numbers_tmInner (p q cw th : Nat) : Numbers (tmInner (2 ^ p) (2 ^ q) cw th) cw th (cw * th) := by
  by_cases hfull : cw = 2 ^ p ∧ th = 2 ^ q
  · have horder : tmInner (2 ^ p) (2 ^ q) cw th = fun x y => ilv x y (2 ^ p) (2 ^ q) := by
      funext x y
      rw [tmInner, if_pos hfull]
    rw [horder, hfull.1, hfull.2]
    exact numbers_ilv p q
  · have horder : tmInner (2 ^ p) (2 ^ q) cw th = fun x y => y * cw + x := by
      funext x y
      rw [tmInner, if_neg hfull]
    rw [horder]
    exact numbers_rowMajor cw th

/-- The side, in an image of `n` units, of the tile of side `T` that holds unit `i`: an edge tile is cut off (R231). -/
def tileSide (T n i : Nat) : Nat := min T (n - i / T * T)

theorem tileSide_le (T n i : Nat) : tileSide T n i ≤ T := min_le_left _ _

/-- A tile holds its units and ends inside the image. -/
theorem tileSide_bounds {T n i : Nat} (hT : 0 < T) (hi : i < n) :
    i % T < tileSide T n i ∧ i / T * T + tileSide T n i ≤ n := by
  have hsplit := Nat.div_add_mod' i T
  have hmod := Nat.mod_lt i hT
  unfold tileSide
  omega

theorem tileSide_congr {T i j : Nat} (n : Nat) (h : i / T = j / T) : tileSide T n i = tileSide T n j := by
  rw [tileSide, h, tileSide]

/-- The place of a unit inside its row of tiles, `th` units high (R231): the tiles before its own, then the place in
that. -/
def tmBand (TW TH w th x yi : Nat) : Nat := x / TW * (TW * th) + tmInner TW TH (tileSide TW w x) th (x % TW) yi

theorem tmAddr_eq_band (TW TH w h x y : Nat) :
    tmAddr TW TH w h 1 x y = y / TH * (TH * w) + tmBand TW TH w (tileSide TH h y) x (y % TH) := by
  calc tmAddr TW TH w h 1 x y
      = (y / TH * TH * w + x / TW * TW * tileSide TH h y
          + tmInner TW TH (tileSide TW w x) (tileSide TH h y) (x % TW) (y % TH)) * 1 := rfl
    _ = y / TH * (TH * w) + tmBand TW TH w (tileSide TH h y) x (y % TH) := by
        unfold tmBand
        ring

theorem numbers_tmBand (p q w th : Nat) : Numbers (tmBand (2 ^ p) (2 ^ q) w th) w th (w * th) := by
  have hTW : 0 < 2 ^ p := Nat.two_pow_pos p
  have hinner : ∀ {x y : Nat}, x < w → y < th →
      tmInner (2 ^ p) (2 ^ q) (tileSide (2 ^ p) w x) th (x % 2 ^ p) y < tileSide (2 ^ p) w x * th := fun {x y} hx hy =>
    (numbers_tmInner p q _ th).lt _ y (tileSide_bounds hTW hx).1 hy
  have htile : ∀ {x y : Nat}, x < w → y < th →
      tmInner (2 ^ p) (2 ^ q) (tileSide (2 ^ p) w x) th (x % 2 ^ p) y < 2 ^ p * th := fun hx hy =>
    (hinner hx hy).trans_le (Nat.mul_le_mul_right th (tileSide_le ..))
  constructor
  · intro x y hx hy
    calc tmBand (2 ^ p) (2 ^ q) w th x y
        < x / 2 ^ p * (2 ^ p * th) + tileSide (2 ^ p) w x * th := Nat.add_lt_add_left (hinner hx hy) _
      _ = (x / 2 ^ p * 2 ^ p + tileSide (2 ^ p) w x) * th := by ring
      _ ≤ w * th := Nat.mul_le_mul_right th (tileSide_bounds hTW hx).2
  · intro x y x' y' hx hy hx' hy' he
    obtain ⟨htiles, hplace⟩ := digits_unique (htile hx hy) (htile hx' hy') he
    have hside := tileSide_congr w htiles
    obtain ⟨hxmod, hyy⟩ := (numbers_tmInner p q _ th).inj _ _ _ _ (tileSide_bounds hTW hx).1 hy
      (hside ▸ (tileSide_bounds hTW hx').1) hy' (hside ▸ hplace)
    exact ⟨by rw [← Nat.div_add_mod x (2 ^ p), htiles, hxmod, Nat.div_add_mod], hyy⟩

/-- R232: the tiled-Morton order is a bijection for every image size. -/
theorem numbers_tmAddr (p q w h : Nat) : Numbers (tmAddr (2 ^ p) (2 ^ q) w h 1) w h (w * h) := by
  have hTH : 0 < 2 ^ q := Nat.two_pow_pos q
  have hplace : ∀ {x y : Nat}, x < w → y < h →
      tmBand (2 ^ p) (2 ^ q) w (tileSide (2 ^ q) h y) x (y % 2 ^ q) < w * tileSide (2 ^ q) h y := fun {x y} hx hy =>
    (numbers_tmBand p q w _).lt x _ hx (tileSide_bounds hTH hy).1
  have hband : ∀ {x y : Nat}, x < w → y < h →
      tmBand (2 ^ p) (2 ^ q) w (tileSide (2 ^ q) h y) x (y % 2 ^ q) < 2 ^ q * w := fun {x y} hx hy =>
    (hplace hx hy).trans_le ((Nat.mul_le_mul_left w (tileSide_le ..)).trans_eq (Nat.mul_comm ..))
  constructor
  · intro x y hx hy
    rw [tmAddr_eq_band]
    calc _ < y / 2 ^ q * (2 ^ q * w) + w * tileSide (2 ^ q) h y := Nat.add_lt_add_left (hplace hx hy) _
      _ = w * (y / 2 ^ q * 2 ^ q + tileSide (2 ^ q) h y) := by ring
      _ ≤ w * h := Nat.mul_le_mul_left w (tileSide_bounds hTH hy).2
  · intro x y x' y' hx hy hx' hy' he
    rw [tmAddr_eq_band, tmAddr_eq_band] at he
    obtain ⟨hbands, hunit⟩ := digits_unique (hband hx hy) (hband hx' hy') he
    have hside := tileSide_congr h hbands
    obtain ⟨hxx, hymod⟩ := (numbers_tmBand p q w _).inj _ _ _ _ hx (tileSide_bounds hTH hy).1 hx'
      (hside ▸ (tileSide_bounds hTH hy').1) (hside ▸ hunit)
    exact ⟨hxx, by rw [← Nat.div_add_mod y (2 ^ q), hbands, hymod, Nat.div_add_mod]⟩

end Sys2Proof.Machine
end

section
/-! The byte-wise address functions: PSP blocks, the PS2 formulas and the Switch GOBs (R190, R261, R280, R301). -/

namespace Sys2Proof.Machine

/-! ## The bit operators of R8 as arithmetic -/

theorem and_two_pow_eq (n k : Nat) : n &&& 2 ^ k = n / 2 ^ k % 2 * 2 ^ k := by
  rw [Nat.and_two_pow, Nat.toNat_testBit]

theorem or_eq_add_of_lt {k a b : Nat} (ha : 2 ^ k ∣ a) (hb : b < 2 ^ k) : a ||| b = a + b := by
  obtain ⟨c, rfl⟩ := ha
  exact (Nat.two_pow_add_eq_or_of_lt hb c).symm

theorem clearBits_low (k n : Nat) : clearBits n (2 ^ k - 1) = n / 2 ^ k * 2 ^ k := by
  have hsplit := Nat.div_add_mod' n (2 ^ k)
  rw [clearBits, Nat.and_two_pow_sub_one_eq_mod]
  omega

/-! ## PS2.8 (R261) -/

/-- The row of `2 * W` bytes that holds texel row `y`. -/
def ps28Row (y : Nat) : Nat := y / 4 * 2 + y % 2

/-- The place of texel `(x, y)` in its row of bytes. -/
def ps28Column (x y : Nat) : Nat :=
  x / 16 * 32 + (x + (y + 2) / 4 % 2 * 4) % 8 * 4 + x / 8 % 2 * 2 + y / 2 % 2

theorem ps28Offset_eq_digits (W x y : Nat) : ps28Offset W x y = ps28Row y * (2 * W) + ps28Column x y := by
  have hy16 : clearBits y 0xF = y / 16 * 16 := clearBits_low 4 y
  have hx16 : clearBits x 0xF = x / 16 * 16 := clearBits_low 4 x
  have hy4 : clearBits y 3 = y / 4 * 4 := clearBits_low 2 y
  have hswap : ((y + 2) >>> 2 &&& 1) * 4 = (y + 2) / 4 % 2 * 4 := by
    rw [Nat.and_one_is_mod, Nat.shiftRight_eq_div_pow]
  have hrow : ((clearBits y 3 >>> 1) + (y &&& 1)) &&& 7 = y / 4 % 4 * 2 + y % 2 := by
    rw [hy4, Nat.and_one_is_mod, Nat.shiftRight_eq_div_pow, Nat.and_two_pow_sub_one_eq_mod _ 3]
    omega
  have hcolumn : (x + (y + 2) / 4 % 2 * 4) &&& 7 = (x + (y + 2) / 4 % 2 * 4) % 8 :=
    Nat.and_two_pow_sub_one_eq_mod _ 3
  have hx8 : x >>> 2 &&& 2 = x >>> 2 / 2 % 2 * 2 := and_two_pow_eq _ 1
  have hbyte : (y >>> 1 &&& 1) + (x >>> 2 &&& 2) = y / 2 % 2 + x / 8 % 2 * 2 := by
    rw [hx8, Nat.and_one_is_mod, Nat.shiftRight_eq_div_pow, Nat.shiftRight_eq_div_pow, Nat.div_div_eq_div_mul]
  have hrows : ps28Row y = y / 16 * 8 + (y / 4 % 4 * 2 + y % 2) := by
    unfold ps28Row
    omega
  simp only [ps28Offset]
  rw [hy16, hx16, hswap, hrow, hcolumn, hbyte, hrows, ps28Column]
  ring

/-- A place in a row of bytes gives the four parts it is made of. -/
theorem ps28Column_digits {x y x' y' : Nat} (h : ps28Column x y = ps28Column x' y') :
    x / 16 = x' / 16 ∧ (x + (y + 2) / 4 % 2 * 4) % 8 = (x' + (y' + 2) / 4 % 2 * 4) % 8 ∧
      x / 8 % 2 = x' / 8 % 2 ∧ y / 2 % 2 = y' / 2 % 2 := by
  have hparts : ∀ {a b c d a' b' c' d' : Nat}, b < 8 → c < 2 → d < 2 → b' < 8 → c' < 2 → d' < 2 →
      a * 32 + b * 4 + c * 2 + d = a' * 32 + b' * 4 + c' * 2 + d' → a = a' ∧ b = b' ∧ c = c' ∧ d = d' := by omega
  exact hparts (Nat.mod_lt _ (by omega)) (Nat.mod_lt _ (by omega)) (Nat.mod_lt _ (by omega))
    (Nat.mod_lt _ (by omega)) (Nat.mod_lt _ (by omega)) (Nat.mod_lt _ (by omega)) h

/-- R262: a bijection, row of bytes by row of bytes. -/
theorem numbers_ps28Offset {W H : Nat} (hW : W % 16 = 0) (hH : H % 4 = 0) : Numbers (ps28Offset W) W H (W * H) := by
  have hcolumn : ∀ {x : Nat} (y : Nat), x < W → ps28Column x y < 2 * W := fun {x} y hx => by
    unfold ps28Column
    omega
  have hrow : ∀ {y : Nat}, y < H → ps28Row y < H / 2 := fun {y} hy => by
    unfold ps28Row
    omega
  constructor
  · intro x y hx hy
    rw [ps28Offset_eq_digits]
    refine (digits_lt (hrow hy) (hcolumn y hx)).trans_eq ?_
    calc H / 2 * (2 * W) = W * (H / 2 * 2) := by ring
      _ = W * H := by rw [Nat.div_mul_cancel (by omega)]
  · intro x y x' y' hx hy hx' hy' he
    rw [ps28Offset_eq_digits, ps28Offset_eq_digits] at he
    obtain ⟨hrows, hcolumns⟩ := digits_unique (hcolumn y hx) (hcolumn y' hx') he
    obtain ⟨hx16, hturn, hx8, hy2⟩ := ps28Column_digits hcolumns
    obtain rfl : y = y' := by
      unfold ps28Row at hrows
      omega
    exact ⟨by omega, rfl⟩

/-! ## PERM (R280) -/

/-- R280: bits 3 and 4 change places, and the rest stay. -/
theorem palPerm_eq_digits (i : Nat) : palPerm i = i / 32 * 32 + i / 8 % 2 * 16 + i / 16 % 2 * 8 + i % 8 := by
  have h8 : i &&& 0x08 = i / 8 % 2 * 8 := and_two_pow_eq i 3
  have h16 : i &&& 0x10 = i / 16 % 2 * 16 := and_two_pow_eq i 4
  have h24 : i &&& 0x18 = i / 16 % 2 * 16 + i / 8 % 2 * 8 := by
    rw [show 0x18 = 0x10 ||| 0x08 from rfl, Nat.and_or_distrib_left, h8, h16]
    exact or_eq_add_of_lt (k := 4) (by omega) (by omega)
  have hrest : clearBits i 0x18 = i / 32 * 32 + i % 8 := by
    rw [clearBits, h24]
    omega
  have hup : (i &&& 0x08) <<< 1 = i / 8 % 2 * 16 := by rw [h8, Nat.shiftLeft_eq]; omega
  have hdown : (i &&& 0x10) >>> 1 = i / 16 % 2 * 8 := by rw [h16, Nat.shiftRight_eq_div_pow]; omega
  have hjoin : (i / 32 * 32 + i % 8) ||| (i / 8 % 2 * 16 ||| i / 16 % 2 * 8) =
      i / 32 * 32 + (i % 8 + (i / 8 % 2 * 16 + i / 16 % 2 * 8)) := by
    rw [← or_eq_add_of_lt (k := 5) (by omega) (by omega : i % 8 < 2 ^ 5), Nat.or_assoc,
      or_eq_add_of_lt (k := 4) (a := i / 8 % 2 * 16) (by omega) (by omega), Nat.or_comm (i % 8),
      or_eq_add_of_lt (k := 3) (a := i / 8 % 2 * 16 + i / 16 % 2 * 8) (by omega) (by omega),
      or_eq_add_of_lt (k := 5) (by omega) (by omega)]
    omega
  rw [palPerm, hrest, hup, hdown, Nat.or_assoc, hjoin]
  omega

/-- The bits of `PERM(i)`, from those of `i`. -/
theorem palPerm_bits (i : Nat) :
    palPerm i / 32 = i / 32 ∧ palPerm i / 16 % 2 = i / 8 % 2 ∧ palPerm i / 8 % 2 = i / 16 % 2 ∧
      palPerm i % 8 = i % 8 := by
  have hbits : ∀ {q a b r : Nat}, a < 2 → b < 2 → r < 8 → (q * 32 + a * 16 + b * 8 + r) / 32 = q ∧
      (q * 32 + a * 16 + b * 8 + r) / 16 % 2 = a ∧ (q * 32 + a * 16 + b * 8 + r) / 8 % 2 = b ∧
      (q * 32 + a * 16 + b * 8 + r) % 8 = r := by omega
  rw [palPerm_eq_digits]
  exact hbits (Nat.mod_lt _ (by omega)) (Nat.mod_lt _ (by omega)) (Nat.mod_lt _ (by omega))

/-- R281. -/
theorem palPerm_palPerm (i : Nat) : palPerm (palPerm i) = i := by
  obtain ⟨hgroup, h4, h3, hlow⟩ := palPerm_bits i
  rw [palPerm_eq_digits, hgroup, h3, h4, hlow]
  omega

/-- R281: PERM moves entries within their group of 32, so below every multiple of 32. -/
theorem palPerm_lt {i n : Nat} (hn : n % 32 = 0) (hi : i < n) : palPerm i < n := by
  obtain ⟨hgroup, -⟩ := palPerm_bits i
  omega

/-! ## Switch (R301) -/

/-- The offset of byte column `xb` of row `y` (R301). -/
def nswOffset (bh G xb y : Nat) : Nat := nswGob bh G xb y + nswSub xb y

theorem nswAddr_eq_offset (p : Params) (x y : Nat) :
    nswAddr p x y = nswOffset p.gobBlockH.toNat (nswGobColumns p) (x * p.unitBytes) y := rfl

/-- A GOB of 64 byte columns by 8 rows holds its 512 bytes once each (R300, R301). -/
theorem numbers_nswSub : Numbers nswSub 64 8 (64 * 8) where
  lt x y hx hy := by
    unfold nswSub
    omega
  inj x y x' y' hx hy hx' hy' he := by
    have hparts : ∀ {a b c d e a' b' c' d' e' : Nat}, b < 4 → c < 2 → d < 2 → e < 16 → b' < 4 → c' < 2 → d' < 2 →
        e' < 16 → a * 256 + b * 64 + c * 32 + d * 16 + e = a' * 256 + b' * 64 + c' * 32 + d' * 16 + e' →
        a = a' ∧ b = b' ∧ c = c' ∧ d = d' ∧ e = e' := by omega
    obtain ⟨hx32, hy2, hx16, hy1, hx1⟩ := hparts (by omega) (by omega) (by omega) (by omega) (by omega) (by omega)
      (by omega) (by omega) he
    exact ⟨by omega, by omega⟩

/-- A block is a column of GOBs, and the surface is rows of blocks (R301). -/
theorem nswOffset_eq_tiles (bh G xb y : Nat) :
    nswOffset bh G xb y = tileIndex 64 (bh * 8) G (tileIndex 64 8 1 nswSub) xb y := by
  have hgob : y % (bh * 8) % 8 = y % 8 := Nat.mod_mul_left_mod y bh 8
  have hsub : nswSub (xb % 64 % 64) (y % (bh * 8) % 8) = nswSub xb y := by
    simp only [nswSub, hgob]
    omega
  have hin : xb % 64 / 64 = 0 := by omega
  simp only [nswOffset, nswGob, tileIndex, hsub, hin, Nat.mul_comm 8 bh]
  ring

theorem numbers_nswOffset (bh G R : Nat) :
    Numbers (nswOffset bh G) (G * 64) (R * (bh * 8)) (R * G * (64 * (bh * 8))) := by
  have hblock : Numbers (tileIndex 64 8 1 nswSub) 64 (bh * 8) (64 * (bh * 8)) := by
    have htiles := numbers_nswSub.tile (cols := 1) (rows := bh)
    rwa [Nat.one_mul, Nat.mul_one, show bh * (64 * 8) = 64 * (bh * 8) by ring] at htiles
  have htiles := hblock.tile (cols := G) (rows := R)
  rwa [← funext₂ (nswOffset_eq_tiles bh G)] at htiles

/-- The low four bits of the byte column are those of the offset (R301). -/
theorem nswOffset_eq_mul_add (bh G xb y : Nat) : ∃ m, nswOffset bh G xb y = 16 * m + xb % 16 := by
  refine ⟨y / (8 * bh) * (32 * bh * G) + xb / 64 * (32 * bh) + y % (8 * bh) / 8 * 32
    + (xb % 64 / 32 * 16 + y % 8 / 2 * 4 + xb % 32 / 16 * 2 + y % 2), ?_⟩
  simp only [nswOffset, nswGob, nswSub]
  ring

/-- R302: units of a size the Switch allows are aligned to it. -/
theorem dvd_nswOffset {B : Nat} (hB : B ∣ 16) (bh G x y : Nat) : B ∣ nswOffset bh G (x * B) y := by
  obtain ⟨m, hm⟩ := nswOffset_eq_mul_add bh G (x * B) y
  rw [hm]
  exact Nat.dvd_add (hB.mul_right m) ((Nat.dvd_mod_iff hB).2 (Nat.dvd_mul_left B x))

end Sys2Proof.Machine
end

section
/-! Where the checks of a family pass, its layout is placed and disjoint (R121). -/

namespace Sys2Proof.Machine

variable {p : Params}

/-- IG 0x02: a unit has at least one byte. -/
theorem unitBytes_pos (h : (checkBlock p).fails = false) : 0 < p.unitBytes := by
  simp only [checkBlock, Bool.or_eq_false_iff, beq_eq_false_iff_ne] at h
  exact Nat.pos_of_ne_zero h.2

/-! ## MORTON and MORTONR -/

/-- What an image that passes the checks of R211 and R215 is. -/
theorem geometry_of_mortonChecks (h : firstError (mortonChecks p) = none) :
    ∃ a b, p.unitsW = 2 ^ a ∧ p.unitsH = 2 ^ b ∧ 0 < p.unitBytes := by
  simp only [firstError_eq_none, mortonChecks, List.forall_mem_cons, Bool.or_eq_false_iff, Bool.not_eq_false'] at h
  obtain ⟨-, hblock, ⟨hw, hh⟩, -⟩ := h
  exact ⟨_, _, eq_two_pow_of_isPow2 hw, eq_two_pow_of_isPow2 hh, unitBytes_pos hblock⟩

theorem mortonLayout_placed_apart (h : firstError (mortonChecks p) = none) :
    (mortonLayout p).Placed ∧ (mortonLayout p).Apart := by
  obtain ⟨a, b, hw, hh, hB⟩ := geometry_of_mortonChecks h
  have hilv : Numbers (fun x y => ilv x y p.unitsW p.unitsH) p.unitsW p.unitsH (p.unitsW * p.unitsH) := by
    rw [hw, hh]
    exact numbers_ilv a b
  exact hilv.layout hB

theorem mortonRLayout_placed_apart (h : firstError (mortonChecks p) = none) :
    (mortonRLayout p).Placed ∧ (mortonRLayout p).Apart := by
  obtain ⟨a, b, hw, hh, hB⟩ := geometry_of_mortonChecks h
  have hilvr : Numbers (fun x y => ilvr x y p.unitsW p.unitsH) p.unitsW p.unitsH (p.unitsW * p.unitsH) := by
    rw [hw, hh]
    exact numbers_ilvr a b
  exact hilvr.layout hB

/-! ## PS4 -/

/-- R232: super-tiles of powers of two place every image. -/
theorem tmLayout_placed_apart (i j : Nat) (hB : 0 < p.unitBytes) :
    (tmLayout (2 ^ i) (2 ^ j) p).Placed ∧ (tmLayout (2 ^ i) (2 ^ j) p).Apart := by
  have hlayout := (numbers_tmAddr i j p.unitsW p.unitsH).layout hB
  rwa [← funext₂ (tmAddr_eq_index_mul (2 ^ i) (2 ^ j) p.unitsW p.unitsH p.unitBytes)] at hlayout

theorem ps4Layout_placed_apart (h : firstError (ps4Checks p) = none) :
    (ps4Layout p).Placed ∧ (ps4Layout p).Apart := by
  simp only [firstError_eq_none, ps4Checks, List.forall_mem_cons] at h
  obtain ⟨-, hblock, -⟩ := h
  exact tmLayout_placed_apart 3 3 (unitBytes_pos hblock)

/-! ## BLK, 3DS and PSP -/

/-- An image inside whole tiles, numbered tile by tile (R171). -/
theorem blkLayout_placed_apart (h : firstError (blkChecks p) = none) :
    (blkLayout p).Placed ∧ (blkLayout p).Apart := by
  simp only [firstError_eq_none, blkChecks, List.forall_mem_cons, Bool.or_eq_false_iff, beq_eq_false_iff_ne] at h
  obtain ⟨-, hblock, ⟨hTW, hTH⟩, -⟩ := h
  have hunits := ((numbers_rowMajor p.tileW.toNat p.tileH.toNat).tile (cols := blkTilesPerRow p)
    (rows := blkTileRows p)).mono (le_ceilDiv_mul p.unitsW (Nat.pos_of_ne_zero hTW))
    (le_ceilDiv_mul p.unitsH (Nat.pos_of_ne_zero hTH))
  have hlayout := hunits.layout (unitBytes_pos hblock)
  have haddr : blkAddr p = fun x y => tileIndex p.tileW.toNat p.tileH.toNat (blkTilesPerRow p)
      (fun x y => y * p.tileW.toNat + x) x y * p.unitBytes := by
    funext x y
    rw [tileIndex, ← Nat.add_assoc]
    rfl
  rwa [← haddr, Nat.mul_comm (blkTileRows p), ← Nat.mul_assoc (blkTilesPerRow p * blkTileRows p)] at hlayout

theorem n3dsLayout_placed_apart (h : firstError (n3dsChecks p) = none) :
    (n3dsLayout p).Placed ∧ (n3dsLayout p).Apart := by
  simp only [firstError_eq_none, n3dsChecks, List.forall_mem_cons, Bool.or_eq_false_iff, bne_eq_false_iff_eq] at h
  obtain ⟨-, hblock, ⟨hwidth, hheight⟩, -⟩ := h
  have hw : p.unitsW / 8 * 8 = p.unitsW := Nat.div_mul_cancel (Nat.dvd_of_mod_eq_zero hwidth)
  have hh : p.unitsH / 8 * 8 = p.unitsH := Nat.div_mul_cancel (Nat.dvd_of_mod_eq_zero hheight)
  have hunits := (numbers_ilv 3 3).tile (cols := p.unitsW / 8) (rows := p.unitsH / 8)
  have htotal : p.unitsH / 8 * (p.unitsW / 8) * (2 ^ 3 * 2 ^ 3) = p.unitsW * p.unitsH := by
    calc _ = p.unitsW / 8 * 8 * (p.unitsH / 8 * 8) := by ring
      _ = p.unitsW * p.unitsH := by rw [hw, hh]
  rw [htotal] at hunits
  exact (hunits.mono hw.ge hh.ge).layout (unitBytes_pos hblock)

theorem pspLayout_placed_apart (h : firstError (pspChecks p) = none) :
    (pspLayout p).Placed ∧ (pspLayout p).Apart := by
  simp only [firstError_eq_none, pspChecks, List.forall_mem_cons, Bool.or_eq_false_iff, bne_eq_false_iff_eq] at h
  obtain ⟨-, -, ⟨⟨-, hrow⟩, hheight⟩, -⟩ := h
  have hw : pspRowBytes p / 16 * 16 = pspRowBytes p := Nat.div_mul_cancel (Nat.dvd_of_mod_eq_zero hrow)
  have hh : p.height.toNat / 8 * 8 = p.height.toNat := Nat.div_mul_cancel (Nat.dvd_of_mod_eq_zero hheight)
  have hbytes := (numbers_rowMajor 16 8).tile (cols := pspRowBytes p / 16) (rows := p.height.toNat / 8)
  have htotal : p.height.toNat / 8 * (pspRowBytes p / 16) * (16 * 8) = pspRowBytes p * p.height.toNat := by
    calc _ = pspRowBytes p / 16 * 16 * (p.height.toNat / 8 * 8) := by ring
      _ = pspRowBytes p * p.height.toNat := by rw [hw, hh]
  have haddr : tileIndex 16 8 (pspRowBytes p / 16) (fun x y => y * 16 + x) = pspAddr p := by
    funext i j
    rw [tileIndex, ← Nat.add_assoc]
    rfl
  rw [htotal, haddr] at hbytes
  exact (hbytes.mono hw.ge hh.ge).byteLayout

/-! ## PS2.8 and PS2.PAL -/

theorem ps28Layout_placed_apart (h : firstError (ps28Checks p) = none) :
    (ps28Layout p).Placed ∧ (ps28Layout p).Apart := by
  simp only [firstError_eq_none, ps28Checks, List.forall_mem_cons, Bool.or_eq_false_iff, bne_eq_false_iff_eq] at h
  obtain ⟨-, -, ⟨hwidth, hheight⟩, -⟩ := h
  exact (numbers_ps28Offset hwidth hheight).byteLayout

/-- R281: PERM is a permutation of the entries of a palette of whole groups. -/
theorem palLayout_placed_apart (h : firstError (palChecks p) = none) :
    (palLayout p).Placed ∧ (palLayout p).Apart := by
  simp only [firstError_eq_none, palChecks, List.forall_mem_cons, Bool.or_eq_false_iff, bne_eq_false_iff_eq,
    beq_eq_false_iff_ne] at h
  obtain ⟨-, ⟨⟨hwhole, hsome⟩, hgroups⟩, -⟩ := h
  have hentry : 0 < p.palEntryBytes.toNat := Nat.pos_of_ne_zero fun h0 => hsome (by rw [palEntries, h0, Nat.div_zero])
  have hlen : palEntries p * p.palEntryBytes.toNat = p.srcLen := Nat.div_mul_cancel (Nat.dvd_of_mod_eq_zero hwhole)
  have hnext : ∀ {a b : Nat}, a < b → a * p.palEntryBytes.toNat + p.palEntryBytes.toNat ≤ b * p.palEntryBytes.toNat :=
    fun hab => add_le_of_dvd_of_lt (Nat.dvd_mul_left ..) (Nat.dvd_mul_left ..) (Nat.mul_lt_mul_of_pos_right hab hentry)
  constructor
  · intro i hi
    exact (hnext (palPerm_lt hgroups hi)).trans_eq hlen
  · intro i j _ _ hne
    have hdiffer : palPerm i ≠ palPerm j := fun he => hne (by rw [← palPerm_palPerm i, he, palPerm_palPerm])
    exact (Nat.lt_or_gt_of_ne hdiffer).imp hnext hnext

/-! ## NSW -/

/-- R302: units lie on different bytes of the padded surface, aligned to their size. -/
theorem nswLayout_placed_apart (h : firstError (nswChecks p) = none) :
    (nswLayout p).Placed ∧ (nswLayout p).Apart := by
  simp only [firstError_eq_none, nswChecks, List.forall_mem_cons, Bool.or_eq_false_iff, beq_eq_false_iff_ne,
    Bool.not_eq_false', List.contains_eq_mem, decide_eq_true_eq] at h
  obtain ⟨hunit, hgob, -, hblock, ⟨hpadW, hpadH⟩, -⟩ := h
  have hB : p.unitBytes ∣ 16 := (by decide : ∀ n ∈ [1, 2, 4, 8, 16], n ∣ 16) _ hunit
  have hbh : 0 < p.gobBlockH.toNat := (by decide : ∀ n ∈ [1, 2, 4, 8, 16, 32], 0 < n) _ hgob
  have hpos := unitBytes_pos hblock
  have hwidth : p.unitsW * p.unitBytes ≤ nswGobColumns p * 64 :=
    (Nat.mul_le_mul_right _ (le_ceilDiv_mul p.unitsW (Nat.pos_of_ne_zero hpadW))).trans (le_ceilDiv_mul _ (by omega))
  have hheight : p.unitsH ≤ nswBlockRows p * (p.gobBlockH.toNat * 8) := by
    rw [Nat.mul_comm p.gobBlockH.toNat]
    exact (le_ceilDiv_mul p.unitsH (Nat.pos_of_ne_zero hpadH)).trans (le_ceilDiv_mul _ (by omega))
  have hbytes := (numbers_nswOffset p.gobBlockH.toNat (nswGobColumns p) (nswBlockRows p)).mono hwidth hheight
  have htotal : nswBlockRows p * nswGobColumns p * (64 * (p.gobBlockH.toNat * 8)) =
      nswGobColumns p * nswBlockRows p * 512 * p.gobBlockH.toNat := by ring
  have hcolumn : ∀ {x : Nat}, x < p.unitsW → x * p.unitBytes < p.unitsW * p.unitBytes := fun hx =>
    Nat.mul_lt_mul_of_pos_right hx hpos
  rw [htotal] at hbytes
  refine Numbers.grid_placed_apart ⟨fun x y hx hy => ?_, fun x y x' y' hx hy hx' hy' he => ?_⟩ ?_ fun x y => ?_
  · rw [nswAddr_eq_offset]
    exact hbytes.lt _ _ (hcolumn hx) hy
  · rw [nswAddr_eq_offset, nswAddr_eq_offset] at he
    obtain ⟨hxx, hyy⟩ := hbytes.inj _ _ _ _ (hcolumn hx) hy (hcolumn hx') hy' he
    exact ⟨Nat.eq_of_mul_eq_mul_right hpos hxx, hyy⟩
  · exact ((hB.trans (by decide : 16 ∣ 512)).mul_left _).mul_right _
  · rw [nswAddr_eq_offset]
    exact dvd_nswOffset hB ..

end Sys2Proof.Machine
end

section
/-! A `.SWZ`, and the `.UNSWZ` on its output, through external memory (R132). -/

namespace Sys2Proof.Machine

/-! ## The second command's registers -/

/-- The parameter registers with other buffers: what `State.redirected` makes of them. -/
def Params.withBuffers (p : Params) (srcBase srcLen dstBase dstCap : Address) : Params :=
  { p with
    srcBaseLo := srcBase.setWidth 32, srcBaseHi := (srcBase >>> 32).setWidth 32
    srcLenLo := srcLen.setWidth 32, srcLenHi := (srcLen >>> 32).setWidth 32
    dstBaseLo := dstBase.setWidth 32, dstBaseHi := (dstBase >>> 32).setWidth 32
    dstCapLo := dstCap.setWidth 32, dstCapHi := (dstCap >>> 32).setWidth 32 }

@[simp] theorem State.redirected_params (s : State) (a n b c : Address) :
    (s.redirected a n b c).regs.params = s.regs.params.withBuffers a n b c := rfl

@[simp] theorem State.redirected_mem (s : State) (a n b c : Address) : (s.redirected a n b c).mem = s.mem := rfl

/-- The two halves of a 64-bit value, as the host writes them, hold it (R7). -/
theorem pair_setWidth (v : Address) : pair ((v >>> 32).setWidth 32) (v.setWidth 32) = v.toNat := by
  have hv := v.isLt
  simp only [pair, BitVec.toNat_setWidth, BitVec.toNat_ushiftRight, Nat.shiftRight_eq_div_pow]
  omega

variable (p : Params) (a n b c : Address)

@[simp] theorem Params.withBuffers_srcBase : (p.withBuffers a n b c).srcBase = a.toNat := pair_setWidth a
@[simp] theorem Params.withBuffers_srcLen : (p.withBuffers a n b c).srcLen = n.toNat := pair_setWidth n
@[simp] theorem Params.withBuffers_dstBase : (p.withBuffers a n b c).dstBase = b.toNat := pair_setWidth b

/-! ## Successful remaps -/

/-- A remap that ends in `STATUS` 1 has passed its checks and stored its output (R380). -/
theorem State.complete_remapResult_ok {s : State} {checks : List Check} {out : List Byte}
    (h : (s.complete (remapResult checks out)).regs.results.status = 1) :
    firstError checks = none ∧ s.complete (remapResult checks out) = s.succeedOutput out := by
  rcases remapResult_cases checks out with ⟨e, -, hr⟩ | ⟨hpass, hr⟩
  · rw [hr] at h
    rcases State.complete_status_ok h with ⟨v, hv⟩ | ⟨bytes, hbytes⟩
    · cases hv
    · cases hbytes
  · exact ⟨hpass, by rw [hr, State.complete_output]⟩

/-- Bytes read where they were stored. -/
theorem Memory.readBytes_writeBytes (m : Memory) (a : Nat) (bs : List Byte) :
    (m.writeBytes a bs).readBytes a bs.length = bs := by
  refine buffer_ext 0 (Memory.length_readBytes ..) fun j hj => ?_
  rw [Memory.getD_readBytes hj, Memory.read_writeBytes_of_mem hj]
  rfl

/-- The source of a second command that points at the output of the first (R132). -/
theorem State.source_redirected_output (s : State) {out : List Byte} (hout : out.length < 2 ^ 64) (base cap : Address) :
    ((s.succeedOutput out).redirected (BitVec.ofNat 64 s.regs.params.dstBase)
      ((s.succeedOutput out).regs.results.outLenHi ++ (s.succeedOutput out).regs.results.outLenLo) base cap).source =
      out := by
  have hbase : (BitVec.ofNat 64 s.regs.params.dstBase).toNat = s.regs.params.dstBase := by
    rw [BitVec.toNat_ofNat, Nat.mod_eq_of_lt s.regs.params.dstBase_lt]
  rw [State.source, State.redirected_params, State.redirected_mem, Params.withBuffers_srcBase,
    Params.withBuffers_srcLen, toNat_append_pair, State.succeedOutput_outLen s hout, State.succeedOutput_mem, hbase]
  exact Memory.readBytes_writeBytes ..

/-! ## The round trip -/

/-- What R132 says of a pair of commands through memory: after both succeed, the second on the output of the first, the
second destination holds the first source. -/
def RoundTrips (swz unswz : State → CmdResult) : Prop :=
  ∀ (s t t' u : State) (base cap : Address), s.complete (swz s) = t → t.regs.results.status = 1 →
    t.redirected (BitVec.ofNat 64 s.regs.params.dstBase) (t.regs.results.outLenHi ++ t.regs.results.outLenLo) base cap
      = t' →
    t'.complete (unswz t') = u → u.regs.results.status = 1 →
    pair u.regs.results.outLenHi u.regs.results.outLenLo = s.regs.params.srcLen ∧
      ∀ k, k < s.regs.params.srcLen → u.mem.read (base.toNat + k) = s.mem.read (s.regs.params.srcBase + k)

/-- Remaps round-trip where the second's function undoes the first's, under the first's checks. -/
theorem roundTrips_of_inverse {swz unswz : State → CmdResult} (checks checks' : Params → List Check)
    (f g : Params → List Byte → List Byte)
    (hswz : ∀ s, swz s = remapResult (checks s.regs.params) (f s.regs.params s.source))
    (hunswz : ∀ s, unswz s = remapResult (checks' s.regs.params) (g s.regs.params s.source))
    (hfit : ∀ p src, firstError (checks p) = none → (f p src).length < 2 ^ 64)
    (hinv : ∀ p src a n b c, firstError (checks p) = none → src.length = p.srcLen → n.toNat = (f p src).length →
      g (p.withBuffers a n b c) (f p src) = src) : RoundTrips swz unswz := by
  rintro s t t' u base cap rfl ht rfl rfl hu
  rw [hswz] at ht hu ⊢
  obtain ⟨hpass, hstored⟩ := State.complete_remapResult_ok ht
  have hlen := hfit s.regs.params s.source hpass
  rw [hstored] at hu ⊢
  rw [hunswz, State.source_redirected_output s hlen, State.redirected_params, State.succeedOutput_params,
    hinv _ _ _ _ _ _ hpass s.length_source ((toNat_append_pair ..).trans (State.succeedOutput_outLen s hlen))] at hu ⊢
  obtain ⟨-, hfinal⟩ := State.complete_remapResult_ok hu
  rw [hfinal]
  have hsource : s.source.length < 2 ^ 64 := s.length_source ▸ pair_lt _ _
  refine ⟨(State.succeedOutput_outLen _ hsource).trans s.length_source, fun k hk => ?_⟩
  rw [State.succeedOutput_mem, State.redirected_params, Params.withBuffers_dstBase,
    Memory.read_writeBytes_of_mem (s.length_source.symm ▸ hk)]
  exact s.getD_source hk

/-- A family of generic remaps round-trips where its checks place its layout (R132), which does not depend on where the
buffers are. -/
theorem roundTrips_generic (family : Params → List Check) (lay : Params → Layout)
    (hlay : ∀ {p}, firstError (family p) = none → (lay p).Placed ∧ (lay p).Apart)
    (hkeep : ∀ p a n b c, n.toNat = (lay p).swzLen → lay (p.withBuffers a n b c) = lay p) :
    RoundTrips (fun s => genericSwz s (family s.regs.params) (lay s.regs.params))
      (fun s => genericUnswz s (family s.regs.params) (lay s.regs.params)) := by
  have hchecks : ∀ {p}, firstError (family p ++ bufferChecks p (lay p).linLen (lay p).swzLen) = none →
      firstError (family p) = none ∧ p.srcLen = (lay p).linLen ∧ (lay p).swzLen < 2 ^ 64 := fun {p} h => by
    rw [firstError_append, Option.or_eq_none_iff, firstError_bufferChecks] at h
    obtain ⟨hfamily, hsrc, hcap, -⟩ := h
    exact ⟨hfamily, hsrc, hcap.trans_lt (pair_lt _ _)⟩
  refine roundTrips_of_inverse (fun p => family p ++ bufferChecks p (lay p).linLen (lay p).swzLen)
    (fun p => family p ++ bufferChecks p (lay p).swzLen (lay p).linLen) (fun p => swizzle 0 (lay p))
    (fun p => unswizzle 0 (lay p)) (fun _ => rfl) (fun _ => rfl) (fun p src hpass => ?_)
    (fun p src a n b c hpass hsrc hn => ?_)
  · obtain ⟨-, -, hfit⟩ := hchecks hpass
    rwa [length_swizzle]
  · obtain ⟨hfamily, hlen, -⟩ := hchecks hpass
    obtain ⟨hp, ha⟩ := hlay hfamily
    rw [length_swizzle] at hn
    rw [hkeep p a n b c hn]
    exact unswizzle_swizzle 0 hp ha (hsrc.trans hlen)

/-- The registers of a second command leave PS2.PAL's layout as long as the buffer is (R280). -/
theorem palLayout_withBuffers (p : Params) (a n b c : Address) (hn : n.toNat = (palLayout p).swzLen) :
    palLayout (p.withBuffers a n b c) = palLayout p := by
  have hlen : (p.withBuffers a n b c).srcLen = p.srcLen := (Params.withBuffers_srcLen ..).trans hn
  simp only [palLayout, palEntries, hlen]
  rfl

/-- Two commands whose meanings round-trip. -/
def ExecRoundTrips (sw un : Instr) : Prop :=
  ∃ swz unswz, (∀ s, exec sw s = .next (s.complete (swz s))) ∧ (∀ s, exec un s = .next (s.complete (unswz s))) ∧
    RoundTrips swz unswz

/-- `.SWZ` and `.UNSWZ` of a family whose layout reads no register of the buffers. -/
theorem execRoundTrips_of_family {sw un : Instr} (family : Params → List Check) (lay : Params → Layout)
    (hsw : ∀ s, exec sw s = .next (s.complete (genericSwz s (family s.regs.params) (lay s.regs.params))))
    (hun : ∀ s, exec un s = .next (s.complete (genericUnswz s (family s.regs.params) (lay s.regs.params))))
    (hlay : ∀ {p}, firstError (family p) = none → (lay p).Placed ∧ (lay p).Apart)
    (hkeep : ∀ p a n b c, lay (p.withBuffers a n b c) = lay p) : ExecRoundTrips sw un :=
  ⟨_, _, hsw, hun, roundTrips_generic family lay hlay fun p a n b c _ => hkeep p a n b c⟩

theorem execRoundTrips_of_mem {sw un : Instr} (h : (sw, un) ∈ ([(.mortonSwz, .mortonUnswz),
    (.mortonRSwz, .mortonRUnswz), (.ps4Swz, .ps4Unswz), (.blkSwz, .blkUnswz), (.n3dsSwz, .n3dsUnswz),
    (.pspSwz, .pspUnswz), (.ps28Swz, .ps28Unswz), (.ps2PalSwz, .ps2PalUnswz), (.nswSwz, .nswUnswz)] :
    List (Instr × Instr))) : ExecRoundTrips sw un := by
  simp only [List.mem_cons, Prod.mk.injEq, List.not_mem_nil, or_false] at h
  obtain ⟨rfl, rfl⟩ | ⟨rfl, rfl⟩ | ⟨rfl, rfl⟩ | ⟨rfl, rfl⟩ | ⟨rfl, rfl⟩ | ⟨rfl, rfl⟩ | ⟨rfl, rfl⟩ | ⟨rfl, rfl⟩ |
    ⟨rfl, rfl⟩ := h
  · exact execRoundTrips_of_family mortonChecks mortonLayout (fun _ => rfl) (fun _ => rfl) mortonLayout_placed_apart
      fun _ _ _ _ _ => rfl
  · exact execRoundTrips_of_family mortonChecks mortonRLayout (fun _ => rfl) (fun _ => rfl) mortonRLayout_placed_apart
      fun _ _ _ _ _ => rfl
  · exact execRoundTrips_of_family ps4Checks ps4Layout (fun _ => rfl) (fun _ => rfl) ps4Layout_placed_apart
      fun _ _ _ _ _ => rfl
  · exact execRoundTrips_of_family blkChecks blkLayout (fun _ => rfl) (fun _ => rfl) blkLayout_placed_apart
      fun _ _ _ _ _ => rfl
  · exact execRoundTrips_of_family n3dsChecks n3dsLayout (fun _ => rfl) (fun _ => rfl) n3dsLayout_placed_apart
      fun _ _ _ _ _ => rfl
  · exact execRoundTrips_of_family pspChecks pspLayout (fun _ => rfl) (fun _ => rfl) pspLayout_placed_apart
      fun _ _ _ _ _ => rfl
  · exact execRoundTrips_of_family ps28Checks ps28Layout (fun _ => rfl) (fun _ => rfl) ps28Layout_placed_apart
      fun _ _ _ _ _ => rfl
  · exact ⟨_, _, fun _ => rfl, fun _ => rfl,
      roundTrips_generic palChecks palLayout palLayout_placed_apart palLayout_withBuffers⟩
  · exact execRoundTrips_of_family nswChecks nswLayout (fun _ => rfl) (fun _ => rfl) nswLayout_placed_apart
      fun _ _ _ _ _ => rfl

/-- Settles O52: where the checks of a family pass its layout is placed and disjoint, and `.UNSWZ` gathers what `.SWZ`
has stored. -/
theorem roundTripThroughMemory : Obligations.RoundTripThroughMemory := by
  intro sw un hpair s t u base cap ht hstatus hu hstatus'
  obtain ⟨swz, unswz, hsw, hun, htrips⟩ := execRoundTrips_of_mem hpair
  exact htrips s t _ u base cap (Host.Outcome.next.inj ((hsw s).symm.trans ht)) hstatus rfl
    (Host.Outcome.next.inj ((hun _).symm.trans hu)) hstatus'

end Sys2Proof.Machine
end

section
/-! MIDX as the dealing of the bits of `t` to two coordinates (R150, R151, R154), and ILV as its inverse (R152, R153). -/

namespace Sys2Proof.Machine

/-- The bits of `t` dealt in turn to two coordinates of `a` and `b` bits, the first one first. -/
def unweave : Nat → Nat → Nat → Nat × Nat
  | 0, 0, _ => (0, 0)
  | a + 1, 0, t => (t % 2 + 2 * (unweave a 0 (t / 2)).1, 0)
  | 0, b + 1, t => (0, t % 2 + 2 * (unweave 0 b (t / 2)).2)
  | a + 1, b + 1, t =>
    (t % 2 + 2 * (unweave a b (t / 2 / 2)).1, t / 2 % 2 + 2 * (unweave a b (t / 2 / 2)).2)
termination_by a b => a + b

theorem unweave_zero_right (a t : Nat) : (unweave a 0 t).2 = 0 := by
  cases a <;> rw [unweave]

theorem unweave_zero_left (b t : Nat) : (unweave 0 b t).1 = 0 := by
  cases b <;> rw [unweave]

/-- Each coordinate gets its number of bits (R154). -/
theorem unweave_lt (a b t : Nat) : (unweave a b t).1 < 2 ^ a ∧ (unweave a b t).2 < 2 ^ b := by
  induction a, b, t using unweave.induct with
  | case1 => simp [unweave]
  | case2 a t ih => simp only [unweave, Nat.pow_succ] at ih ⊢; omega
  | case3 b t ih => simp only [unweave, Nat.pow_succ] at ih ⊢; omega
  | case4 a b t ih => simp only [unweave, Nat.pow_succ]; omega

/-! ## Dealing and weaving -/

theorem weave_unweave (a b t : Nat) (ht : t < 2 ^ (a + b)) : weave a b (unweave a b t).1 (unweave a b t).2 = t := by
  induction a, b, t using unweave.induct with
  | case1 t => simp [weave] at ht ⊢; omega
  | case2 a t ih =>
    simp only [unweave, weave, Nat.add_zero, Nat.pow_succ, unweave_zero_right] at ih ht ⊢
    rw [show (t % 2 + 2 * (unweave a 0 (t / 2)).1) / 2 = (unweave a 0 (t / 2)).1 by omega, ih (by omega)]
    omega
  | case3 b t ih =>
    simp only [unweave, weave, Nat.zero_add, Nat.pow_succ, unweave_zero_left] at ih ht ⊢
    rw [show (t % 2 + 2 * (unweave 0 b (t / 2)).2) / 2 = (unweave 0 b (t / 2)).2 by omega, ih (by omega)]
    omega
  | case4 a b t ih =>
    rw [show a + 1 + (b + 1) = a + b + 1 + 1 by omega, Nat.pow_succ, Nat.pow_succ] at ht
    simp only [unweave, weave]
    rw [show (t % 2 + 2 * (unweave a b (t / 2 / 2)).1) / 2 = (unweave a b (t / 2 / 2)).1 by omega,
      show (t / 2 % 2 + 2 * (unweave a b (t / 2 / 2)).2) / 2 = (unweave a b (t / 2 / 2)).2 by omega, ih (by omega)]
    omega

/-- A position goes to two coordinates exactly when they are woven to it (R153). -/
theorem unweave_eq_iff {a b t x y : Nat} (ht : t < 2 ^ (a + b)) (hx : x < 2 ^ a) (hy : y < 2 ^ b) :
    unweave a b t = (x, y) ↔ t = weave a b x y := by
  obtain ⟨hxt, hyt⟩ := unweave_lt a b t
  constructor
  · intro h
    rw [← weave_unweave a b t ht, h]
  · intro h
    obtain ⟨hfirst, hsecond⟩ := weave_inj a b _ _ x y hxt hyt hx hy ((weave_unweave a b t ht).trans h)
    exact Prod.ext hfirst hsecond

/-! ## Bits (R154) -/

theorem testBit_low_digit (c r : Nat) : (c % 2 + 2 * r).testBit 0 = c.testBit 0 := by
  simp only [Nat.testBit_zero, Nat.add_mul_mod_self_left, Nat.mod_mod]

theorem testBit_upper_digits (c r i : Nat) : (c % 2 + 2 * r).testBit (i + 1) = r.testBit i := by
  rw [Nat.testBit_succ]
  congr 1
  omega

/-- The first coordinate's bits stand before the second's at every level both have. -/
theorem testBit_unweave (a b t : Nat) :
    (∀ i, i < a → (unweave a b t).1.testBit i = t.testBit (i + min i b)) ∧
      ∀ j, j < b → (unweave a b t).2.testBit j = t.testBit (j + min (j + 1) a) := by
  induction a, b, t using unweave.induct with
  | case1 => exact ⟨fun i hi => by omega, fun j hj => by omega⟩
  | case2 a t ih =>
    refine ⟨fun i hi => ?_, fun j hj => by omega⟩
    cases i with
    | zero => rw [unweave, testBit_low_digit, Nat.zero_min]
    | succ i =>
      rw [unweave, testBit_upper_digits, ih.1 i (by omega), ← Nat.testBit_succ, Nat.min_zero, Nat.min_zero]
  | case3 b t ih =>
    refine ⟨fun i hi => by omega, fun j hj => ?_⟩
    cases j with
    | zero => rw [unweave, testBit_low_digit, Nat.min_zero]
    | succ j =>
      rw [unweave, testBit_upper_digits, ih.2 j (by omega), ← Nat.testBit_succ, Nat.min_zero, Nat.min_zero]
  | case4 a b t ih =>
    refine ⟨fun i hi => ?_, fun j hj => ?_⟩
    · cases i with
      | zero => rw [unweave, testBit_low_digit, Nat.zero_min]
      | succ i =>
        rw [unweave, testBit_upper_digits, ih.1 i (by omega), ← Nat.testBit_succ, ← Nat.testBit_succ]
        congr 1
        omega
    · cases j with
      | zero =>
        rw [unweave, testBit_low_digit, ← Nat.testBit_succ]
        congr 1
      | succ j =>
        rw [unweave, testBit_upper_digits, ih.2 j (by omega), ← Nat.testBit_succ, ← Nat.testBit_succ]
        congr 1
        omega

/-! ## The loop of R150 -/

/-- A block of the loop passes over a dimension with nothing left. -/
theorem Axis.take_one (u acc t : Nat) : Axis.take ⟨2 ^ 0, u, acc⟩ t = (⟨2 ^ 0, u, acc⟩, t) := rfl

/-- A block of the loop deals the low bit of `t`. -/
theorem Axis.take_pow_succ (a u acc t : Nat) :
    Axis.take ⟨2 ^ (a + 1), u, acc⟩ t = (⟨2 ^ a, u * 2, acc + u * (t % 2)⟩, t / 2) := by
  have hmore : 1 < 2 ^ (a + 1) := Nat.one_lt_two_pow (by omega)
  have hhalf : 2 ^ (a + 1) >>> 1 = 2 ^ a := by rw [Nat.shiftRight_one, Nat.pow_succ]; omega
  simp [Axis.take, hmore, hhalf, Nat.shiftRight_one]

theorem dealBits_succ (n : Nat) (a b : Axis) (t : Nat) :
    dealBits (n + 1) a b t = dealBits n (a.take t).1 (b.take (a.take t).2).1 (b.take (a.take t).2).2 := rfl

/-- The loop adds what it deals, at the weights reached, to the bits already in the accumulators. -/
theorem dealBits_eq_unweave {n a b : Nat} (u v xa ya t : Nat) (ha : a ≤ n) (hb : b ≤ n) :
    (dealBits n ⟨2 ^ a, u, xa⟩ ⟨2 ^ b, v, ya⟩ t).1.acc = xa + u * (unweave a b t).1 ∧
      (dealBits n ⟨2 ^ a, u, xa⟩ ⟨2 ^ b, v, ya⟩ t).2.acc = ya + v * (unweave a b t).2 := by
  induction n generalizing a b u v xa ya t with
  | zero =>
    obtain ⟨rfl, rfl⟩ : a = 0 ∧ b = 0 := by omega
    simp [dealBits, unweave]
  | succ n ih =>
    rw [dealBits_succ]
    cases a with
    | zero =>
      cases b with
      | zero =>
        rw [Axis.take_one, Axis.take_one]
        exact ih u v xa ya t (by omega) (by omega)
      | succ b =>
        rw [Axis.take_one, Axis.take_pow_succ]
        obtain ⟨hx, hy⟩ := ih (a := 0) u (v * 2) xa (ya + v * (t % 2)) (t / 2) (by omega) (by omega : b ≤ n)
        rw [hx, hy, unweave_zero_left, unweave]
        exact ⟨rfl, by ring⟩
    | succ a =>
      cases b with
      | zero =>
        rw [Axis.take_pow_succ, Axis.take_one]
        obtain ⟨hx, hy⟩ := ih (b := 0) (u * 2) v (xa + u * (t % 2)) ya (t / 2) (by omega : a ≤ n) (by omega)
        rw [hx, hy, unweave_zero_right, unweave]
        exact ⟨by ring, rfl⟩
      | succ b =>
        rw [Axis.take_pow_succ, Axis.take_pow_succ]
        obtain ⟨hx, hy⟩ := ih (u * 2) (v * 2) (xa + u * (t % 2)) (ya + v * (t / 2 % 2)) (t / 2 / 2)
          (by omega : a ≤ n) (by omega : b ≤ n)
        rw [hx, hy, unweave]
        exact ⟨by ring, by ring⟩

/-- R150 on powers of two. -/
theorem midx_eq_unweave (t p q : Nat) :
    midx t (2 ^ p) (2 ^ q) = (unweave p q t).2 * 2 ^ p + (unweave p q t).1 := by
  obtain ⟨hx, hy⟩ := dealBits_eq_unweave (n := p + q) 1 1 0 0 t (Nat.le_add_right p q) (Nat.le_add_left q p)
  simp only [midx, mortonSteps, Nat.log2_two_pow, hx, hy, Nat.zero_add, Nat.one_mul]

/-- R151 on powers of two: y is the coordinate that goes first. -/
theorem midxr_eq_unweave (t p q : Nat) :
    midxr t (2 ^ p) (2 ^ q) = (unweave q p t).1 * 2 ^ p + (unweave q p t).2 := by
  obtain ⟨hy, hx⟩ := dealBits_eq_unweave (n := p + q) 1 1 0 0 t (Nat.le_add_left q p) (Nat.le_add_right p q)
  simp only [midxr, mortonSteps, Nat.log2_two_pow, hx, hy, Nat.zero_add, Nat.one_mul]

/-! ## Inverses (R152) -/

variable {p q t x y : Nat}

theorem midx_eq_iff (ht : t < 2 ^ p * 2 ^ q) (hx : x < 2 ^ p) (hy : y < 2 ^ q) :
    midx t (2 ^ p) (2 ^ q) = y * 2 ^ p + x ↔ t = ilv x y (2 ^ p) (2 ^ q) := by
  rw [ilv_eq_weave, ← unweave_eq_iff (by rwa [Nat.pow_add]) hx hy, midx_eq_unweave, Prod.ext_iff]
  constructor
  · exact fun h => (digits_unique (unweave_lt p q t).1 hx h).symm
  · rintro ⟨hfirst, hsecond⟩
    rw [hfirst, hsecond]

theorem midxr_eq_iff (ht : t < 2 ^ p * 2 ^ q) (hx : x < 2 ^ p) (hy : y < 2 ^ q) :
    midxr t (2 ^ p) (2 ^ q) = y * 2 ^ p + x ↔ t = ilvr x y (2 ^ p) (2 ^ q) := by
  rw [ilvr_eq_ilv, ilv_eq_weave, ← unweave_eq_iff (by rwa [Nat.pow_add, Nat.mul_comm]) hy hx, midxr_eq_unweave,
    Prod.ext_iff]
  constructor
  · exact digits_unique (unweave_lt q p t).2 hx
  · rintro ⟨hfirst, hsecond⟩
    rw [hfirst, hsecond]

/-! ## The range of the index (R156, R157) -/

/-- What the loop keeps of a dimension `N`, power of two or not: something is left of it, the accumulator is below the
weight of its next bit, and the halvings have not outrun `N`. -/
structure Axis.Within (a : Axis) (N : Nat) : Prop where
  left_pos : 1 ≤ a.left
  acc_lt : a.acc < a.weight
  weight_mul_left_le : a.weight * a.left ≤ N

variable {a b : Axis} {M N : Nat}

theorem Axis.within_start (h : 1 ≤ N) : Axis.Within ⟨N, 1, 0⟩ N := ⟨h, Nat.one_pos, (Nat.one_mul N).le⟩

theorem Axis.Within.acc_lt_size (h : a.Within N) : a.acc < N :=
  calc a.acc < a.weight := h.acc_lt
    _ ≤ a.weight * a.left := Nat.le_mul_of_pos_right _ h.left_pos
    _ ≤ N := h.weight_mul_left_le

theorem Axis.Within.take (h : a.Within N) (t : Nat) : (a.take t).1.Within N := by
  obtain ⟨hleft, hacc, hle⟩ := h
  unfold Axis.take
  split
  · next hmore =>
    refine ⟨?_, ?_, ?_⟩
    · simp only [Nat.shiftRight_one]
      omega
    · have hbit : a.weight * (t &&& 1) ≤ a.weight * 1 :=
        Nat.mul_le_mul_left _ (by rw [Nat.and_one_is_mod]; omega)
      simp only
      omega
    · calc a.weight * 2 * (a.left >>> 1) = a.weight * (2 * (a.left / 2)) := by rw [Nat.shiftRight_one, Nat.mul_assoc]
        _ ≤ a.weight * a.left := Nat.mul_le_mul_left _ (Nat.mul_div_le a.left 2)
        _ ≤ N := hle
  · exact ⟨hleft, hacc, hle⟩

/-- The loop keeps both accumulators below their dimensions, however often it runs. -/
theorem dealBits_acc_lt (n t : Nat) (ha : a.Within M) (hb : b.Within N) :
    (dealBits n a b t).1.acc < M ∧ (dealBits n a b t).2.acc < N := by
  induction n generalizing a b t with
  | zero => exact ⟨ha.acc_lt_size, hb.acc_lt_size⟩
  | succ n ih => exact ih _ (ha.take _) (hb.take _)

theorem midx_lt (t : Nat) {W H : Nat} (hW : 1 ≤ W) (hH : 1 ≤ H) : midx t W H < W * H := by
  obtain ⟨hx, hy⟩ := dealBits_acc_lt (mortonSteps W H) t (Axis.within_start hW) (Axis.within_start hH)
  exact grid_index_lt hx hy

theorem midxr_lt (t : Nat) {W H : Nat} (hW : 1 ≤ W) (hH : 1 ≤ H) : midxr t W H < W * H := by
  obtain ⟨hy, hx⟩ := dealBits_acc_lt (mortonSteps W H) t (Axis.within_start hH) (Axis.within_start hW)
  exact grid_index_lt hx hy

end Sys2Proof.Machine
end

section
/-! The statements about the Morton index. -/

namespace Sys2Proof.Machine

/-- Settles O17: on powers of two the loop deals the bits as `unweave` does, y first for MIDXR. -/
theorem midxDealsTheBitsOfT : Obligations.MidxDealsTheBitsOfT := by
  intro p q t
  obtain ⟨hx, hy⟩ := unweave_lt p q t
  obtain ⟨hxbits, hybits⟩ := testBit_unweave p q t
  obtain ⟨hyr, hxr⟩ := unweave_lt q p t
  obtain ⟨hyrbits, hxrbits⟩ := testBit_unweave q p t
  exact ⟨⟨_, _, midx_eq_unweave t p q, hx, hy, hxbits, hybits⟩,
    ⟨_, _, midxr_eq_unweave t p q, hxr, hyr, hyrbits, hxrbits⟩⟩

/-- Settles O18: weaving two coordinates undoes the dealing. -/
theorem ilvInvertsMidx : Obligations.IlvInvertsMidx := by
  intro p q x y hx hy
  have hlt := (numbers_ilv p q).lt x y hx hy
  have hltr := (numbers_ilvr p q).lt x y hx hy
  exact ⟨hlt, hltr, (midx_eq_iff hlt hx hy).2 rfl, (midxr_eq_iff hltr hx hy).2 rfl⟩

/-- Settles O19: the one position with index `y * W + x` is where ILV (ILVR) puts `x` and `y`. -/
theorem midxIsABijectionOnPowersOfTwo : Obligations.MidxIsABijectionOnPowersOfTwo := by
  refine ⟨fun p q n hn => ?_, by decide⟩
  obtain ⟨hx, hy⟩ := grid_column_lt hn
  obtain ⟨hlt, hltr, hmidx, hmidxr⟩ := ilvInvertsMidx p q _ _ hx hy
  rw [← Nat.div_add_mod' n (2 ^ p)]
  exact ⟨⟨_, ⟨hlt, hmidx⟩, fun t' ht' => (midx_eq_iff ht' hx hy).1⟩,
    ⟨_, ⟨hltr, hmidxr⟩, fun t' ht' => (midxr_eq_iff ht' hx hy).1⟩⟩

/-- Settles O20: the loop keeps each accumulator below its dimension. -/
theorem midxStaysInTheImage : Obligations.MidxStaysInTheImage :=
  fun t _ _ hW hH => ⟨midx_lt t hW hH, midxr_lt t hW hH⟩

/-- An IDX command runs its two checks and ends in its index, which fits `RESULT` where it is below `W * H`
(R156, R157). -/
theorem idxResult_checked (s : State) (index : Nat → Nat → Nat → Nat)
    (hindex : ∀ t W H, 1 ≤ W → 1 ≤ H → index t W H < W * H) :
    let W := s.regs.params.width.toNat
    let H := s.regs.params.height.toNat
    let v := index s.regs.params.coordT.toNat W H
    let t := s.complete (idxResult s.regs.params index)
    SizeChecked s t (Checked s t (W * H ≤ s.regs.params.coordT.toNat) (.ig 0x0A) (v < W * H ∧ ValueEffect s t v)) := by
  intro W H v t
  refine checked_value (rest := fun t => Checked s t _ _ (_ ∧ ValueEffect s t v)) (checkSize_fails _)
    (checkSize_err _) fun hsize => ?_
  refine checked_value (rest := fun t => _ ∧ ValueEffect s t v) decide_eq_true_iff rfl fun _ => ?_
  simp only [not_or, BitVec.toNat_eq] at hsize
  obtain ⟨hW, hH⟩ := hsize
  have hv : v < W * H := hindex _ W H (Nat.pos_of_ne_zero hW) (Nat.pos_of_ne_zero hH)
  have hsides : W * H ≤ 2 ^ 32 * 2 ^ 32 :=
    Nat.mul_le_mul s.regs.params.width.isLt.le s.regs.params.height.isLt.le
  exact ⟨hv, s.succeedValue_effect (hv.trans_le hsides)⟩

/-- Settles O21: each command is `idxResult` of its index, which O20 bounds. -/
theorem idxCommandsReturnTheMortonIndex : Obligations.IdxCommandsReturnTheMortonIndex :=
  ⟨decode_encode .mortonIdx, decode_encode .mortonRIdx, fun s =>
    ⟨⟨_, rfl, idxResult_checked s midx fun t _ _ hW hH => midx_lt t hW hH⟩,
      ⟨_, rfl, idxResult_checked s midxr fun t _ _ hW hH => midxr_lt t hW hH⟩⟩⟩

end Sys2Proof.Machine
end

section
/-! A command that runs the checks of its family first (R126), in the terms of Sys2Proof/Safety.lean. -/

namespace Sys2Proof.Machine

/-- Running checks in order (R126): a failing one ends the command in its error, and `rest` follows where none fails. -/
def ChecksRun (s t : State) : List Check → Prop → Prop
  | [], rest => rest
  | c :: cs, rest => Checked s t (c.fails = true) c.err (ChecksRun s t cs rest)

/-- The error that `ChecksRun` ends in is the model's `firstError`. -/
theorem checksRun_iff {s t : State} {rest : Prop} (cs : List Check) :
    ChecksRun s t cs rest ↔
      (∃ e, firstError cs = some e ∧ ErrorEffect s t e) ∨ (firstError cs = none ∧ rest) := by
  induction cs with
  | nil => simp [ChecksRun]
  | cons c cs ih =>
    rw [ChecksRun, Checked, ih, firstError_cons]
    by_cases hfails : c.fails = true <;> simp [hfails]

/-- A command that ends in the first error of its family's checks, and else does `rest`. -/
theorem checksRun_complete {s : State} {family : List Check} {r : CmdResult} {rest : Prop}
    (herror : ∀ e, firstError family = some e → r = .error e) (hrest : firstError family = none → rest) :
    ChecksRun s (s.complete r) family rest := by
  rw [checksRun_iff]
  cases hfirst : firstError family with
  | some e =>
    rw [herror e hfirst]
    exact .inl ⟨e, rfl, s.raise_effect e⟩
  | none => exact .inr ⟨rfl, hrest hfirst⟩

/-! ## Generic remaps -/

theorem remapResult_append_of_error {family : List Check} {e : CmdError} (h : firstError family = some e)
    (cs : List Check) (out : List Byte) : remapResult (family ++ cs) out = .error e := by
  simp [remapResult, firstError_append, h]

theorem remapResult_append_of_none {family : List Check} (h : firstError family = none) (cs : List Check)
    (out : List Byte) : remapResult (family ++ cs) out = remapResult cs out := by
  simp [remapResult, firstError_append, h]

/-- The generic `.UNSWZ` (R123) over a grid that the family's checks place. -/
theorem genericUnswz_checked (s : State) {family : List Check} {w h B L : Nat} {A : Nat → Nat → Nat}
    (hplaced : firstError family = none → (gridLayout w h B L A).Placed) :
    let t := s.complete (genericUnswz s family (gridLayout w h B L A))
    ChecksRun s t family (BufferChecked s t L (w * h * B) (UnswzEffect (gridMap w h B L A) s t)) := by
  refine checksRun_complete (fun e he => remapResult_append_of_error he _ _) fun hnone => ?_
  rw [genericUnswz, remapResult_append_of_none hnone]
  exact bufferChecked_remap (cs := []) (rest := UnswzEffect _ s) fun hlen hfit _ =>
    unswizzle_effect (hplaced hnone) hlen hfit

/-- The generic `.SWZ` (R124) over a grid that the family's checks place and keep apart. -/
theorem genericSwz_checked (s : State) {family : List Check} {w h B L : Nat} {A : Nat → Nat → Nat}
    (hlayout : firstError family = none → (gridLayout w h B L A).Placed ∧ (gridLayout w h B L A).Apart) :
    let t := s.complete (genericSwz s family (gridLayout w h B L A))
    ChecksRun s t family (BufferChecked s t (w * h * B) L (SwzEffect (gridMap w h B L A) s t)) := by
  refine checksRun_complete (fun e he => remapResult_append_of_error he _ _) fun hnone => ?_
  obtain ⟨hplaced, hapart⟩ := hlayout hnone
  rw [genericSwz, remapResult_append_of_none hnone]
  exact bufferChecked_remap (cs := []) (rest := SwzEffect _ s) fun hlen hfit _ =>
    swizzle_effect hplaced hapart hlen hfit

/-! ## Generic `.ADDR` -/

theorem addrResult_of_error {family : List Check} {e : CmdError} (h : firstError family = some e) (d : Bool)
    (a : Nat) : addrResult family d a = .error e := by
  simp [addrResult, valueResult, firstError_append, h]

theorem addrResult_of_none {family : List Check} (h : firstError family = none) (d : Bool) (a : Nat) :
    addrResult family d a = addrResult [] d a := by
  simp [addrResult, valueResult, firstError_append, h]

/-- The generic `.ADDR` (R125). -/
theorem genericAddr_checked (s : State) (family : List Check) (w h : Nat) (A : Nat → Nat → Nat) :
    let p := s.regs.params
    let t := s.complete (genericAddr p family w h A)
    ChecksRun s t family
      (AddrOutcome s t (p.coordX.toNat < w ∧ p.coordY.toNat < h) (A p.coordX.toNat p.coordY.toNat)) := by
  refine checksRun_complete (fun e he => addrResult_of_error he _ _) fun hnone => ?_
  rw [genericAddr, addrResult_of_none hnone]
  exact addrOutcome_addrResult (by simp)

end Sys2Proof.Machine
end

section
/-! The statements about the block-tiled family: BLK, 3DS and PSP. -/

namespace Sys2Proof.Machine

/-! ## BLK -/

/-- The checks of R171. -/
theorem blkChecks_run {s t : State} {rest : Prop} : ChecksRun s t (blkChecks s.regs.params) rest ↔
    (SizeChecked s t <| BlockChecked s t <|
      Checked s t (s.regs.params.tileW = 0 ∨ s.regs.params.tileH = 0) (.ig 0x03) rest) := by
  simp [ChecksRun, blkChecks, SizeChecked, BlockChecked, BitVec.toNat_eq]

/-- Settles O30: the checks of R171 leave a layout that is placed and apart, with the address function of R171. -/
theorem blkRemapsTileRowMajor : Obligations.BlkRemapsTileRowMajor :=
  ⟨decode_encode .blkUnswz, decode_encode .blkSwz, fun s =>
    ⟨⟨_, rfl, blkChecks_run.1 (genericUnswz_checked s fun h => (blkLayout_placed_apart h).1)⟩,
      ⟨_, rfl, blkChecks_run.1 (genericSwz_checked s blkLayout_placed_apart)⟩⟩⟩

/-- Settles O31: the generic `.ADDR` after the checks of R171. -/
theorem blkAddrOfAUnit : Obligations.BlkAddrOfAUnit :=
  ⟨decode_encode .blkAddr, fun s => ⟨_, rfl, blkChecks_run.1 (genericAddr_checked s _ _ _ _)⟩⟩

/-! ## 3DS -/

/-- The checks of R180. -/
theorem n3dsChecks_run {s t : State} {rest : Prop} : ChecksRun s t (n3dsChecks s.regs.params) rest ↔
    (SizeChecked s t <| BlockChecked s t <|
      Checked s t (s.regs.params.unitsW % 8 ≠ 0 ∨ s.regs.params.unitsH % 8 ≠ 0) (.ig 0x05) rest) := by
  simp [ChecksRun, n3dsChecks, SizeChecked, BlockChecked]

/-- Settles O32: the checks of R180 leave an image of whole tiles, whose layout is placed and apart. -/
theorem n3dsRemapsTile8x8Morton : Obligations.N3dsRemapsTile8x8Morton :=
  ⟨decode_encode .n3dsUnswz, decode_encode .n3dsSwz, fun s =>
    ⟨⟨_, rfl, n3dsChecks_run.1 (genericUnswz_checked s fun h => (n3dsLayout_placed_apart h).1)⟩,
      ⟨_, rfl, n3dsChecks_run.1 (genericSwz_checked s n3dsLayout_placed_apart)⟩⟩⟩

/-- Settles O33: the generic `.ADDR` after the checks of R180. -/
theorem n3dsAddrOfAUnit : Obligations.N3dsAddrOfAUnit :=
  ⟨decode_encode .n3dsAddr, fun s => ⟨_, rfl, n3dsChecks_run.1 (genericAddr_checked s _ _ _ _)⟩⟩

/-! ## PSP -/

/-- The checks of R190. -/
theorem pspChecks_run {s t : State} {rest : Prop} : ChecksRun s t (pspChecks s.regs.params) rest ↔
    (Checked s t (s.regs.params.bpp.toNat ∉ [4, 8, 16, 32]) (.up 0x16) <| SizeChecked s t <|
      Checked s t (s.regs.params.width.toNat * s.regs.params.bpp.toNat % 8 ≠ 0 ∨
        pspRowBytes s.regs.params % 16 ≠ 0 ∨ s.regs.params.height.toNat % 8 ≠ 0) (.ig 0x05) rest) := by
  simp [ChecksRun, pspChecks, SizeChecked, or_assoc]

/-- Settles O34: the checks of R190 leave an image of whole blocks, whose layout of single bytes is placed and apart. -/
theorem pspRemapsBlocksOf16x8 : Obligations.PspRemapsBlocksOf16x8 := by
  refine ⟨decode_encode .pspUnswz, decode_encode .pspSwz, fun s => ⟨⟨_, rfl, ?_⟩, ⟨_, rfl, ?_⟩⟩⟩
  · have hrun := genericUnswz_checked s fun h => (pspLayout_placed_apart (p := s.regs.params) h).1
    rw [Nat.mul_one] at hrun
    exact pspChecks_run.1 hrun
  · have hrun := genericSwz_checked s (pspLayout_placed_apart (p := s.regs.params))
    rw [Nat.mul_one] at hrun
    exact pspChecks_run.1 hrun

/-- Settles O35: the generic `.ADDR` after the checks of R190. -/
theorem pspAddrOfAByte : Obligations.PspAddrOfAByte :=
  ⟨decode_encode .pspAddr, fun s => ⟨_, rfl, pspChecks_run.1 (genericAddr_checked s _ _ _ _)⟩⟩

end Sys2Proof.Machine
end

section
/-! The X360 address function and its inverse (R221, R223). -/

namespace Sys2Proof.Machine

/-! ## Bit fields (R8) -/

/-- A field of `j` bits from bit `k` on, left in its place. -/
theorem and_mask_eq (n j k : Nat) : n &&& (2 ^ j - 1) * 2 ^ k = n / 2 ^ k % 2 ^ j * 2 ^ k := by
  have hfield : (n &&& (2 ^ j - 1) * 2 ^ k) / 2 ^ k = n / 2 ^ k % 2 ^ j := by
    rw [Nat.and_div_two_pow, Nat.mul_div_cancel _ (Nat.two_pow_pos k), Nat.and_two_pow_sub_one_eq_mod]
  have hlow : (n &&& (2 ^ j - 1) * 2 ^ k) % 2 ^ k = 0 := by
    rw [Nat.and_mod_two_pow, Nat.mul_mod_left, Nat.and_zero]
  rw [← Nat.div_add_mod' (n &&& (2 ^ j - 1) * 2 ^ k) (2 ^ k), hfield, hlow, Nat.add_zero]

/-! The masks of R221, each as the field it selects or clears. -/

theorem and_0x3 (n : Nat) : n &&& 0x3 = n % 4 := Nat.and_two_pow_sub_one_eq_mod n 2
theorem and_0x7 (n : Nat) : n &&& 0x7 = n % 8 := Nat.and_two_pow_sub_one_eq_mod n 3
theorem and_0xF (n : Nat) : n &&& 0xF = n % 16 := Nat.and_two_pow_sub_one_eq_mod n 4
theorem and_0x3F (n : Nat) : n &&& 0x3F = n % 64 := Nat.and_two_pow_sub_one_eq_mod n 6
theorem and_0x2 (n : Nat) : n &&& 0x2 = n / 2 % 2 * 2 := and_two_pow_eq n 1
theorem and_0x8 (n : Nat) : n &&& 0x8 = n / 8 % 2 * 8 := and_two_pow_eq n 3
theorem and_0x10 (n : Nat) : n &&& 0x10 = n / 16 % 2 * 16 := and_two_pow_eq n 4
theorem and_0x800 (n : Nat) : n &&& 0x800 = n / 2048 % 2 * 2048 := and_two_pow_eq n 11
theorem and_0xE (n : Nat) : n &&& 0xE = n / 2 % 8 * 2 := and_mask_eq n 3 1
theorem and_0x1C0 (n : Nat) : n &&& 0x1C0 = n / 64 % 8 * 64 := and_mask_eq n 3 6
theorem and_0x700 (n : Nat) : n &&& 0x700 = n / 256 % 8 * 256 := and_mask_eq n 3 8
theorem clearBits_0x1 (n : Nat) : clearBits n 0x1 = n / 2 * 2 := clearBits_low 1 n
theorem clearBits_0xF (n : Nat) : clearBits n 0xF = n / 16 * 16 := clearBits_low 4 n
theorem clearBits_0x1F (n : Nat) : clearBits n 0x1F = n / 32 * 32 := clearBits_low 5 n
theorem clearBits_0x1FF (n : Nat) : clearBits n 0x1FF = n / 512 * 512 := clearBits_low 9 n
theorem clearBits_0xFFF (n : Nat) : clearBits n 0xFFF = n / 4096 * 4096 := clearBits_low 12 n

/-! ## XGOFF in three steps that lose nothing -/

/-- The 32 x 32 tile of a unit, in an image of `w / 32` tiles a row. -/
def xgTile (x y w : Nat) : Nat := x / 32 + y / 32 * (w / 32)

/-- First step: the byte of the unit's 8 x 8 part in its tile. -/
def xgMicro (x y w B : Nat) : Nat := (xgTile x y w * 64 + y / 2 % 8 * 8 + x % 8) * B

/-- Second step: bit 0 of the row is put in at bit 4. -/
def xgWiden (m y0 : Nat) : Nat := m / 16 * 32 + y0 * 16 + m % 16

/-- Third step: the two bits `c` are put in at bit 6, and bit 4 of the row at bit 11. -/
def xgSpread (o c y4 : Nat) : Nat := o / 512 * 4096 + y4 * 2048 + o / 64 % 8 * 256 + c * 64 + o % 64

/-- The two bits that choose the 8 columns in a tile, turned by bit 3 of the row. -/
def xgTurn (x y : Nat) : Nat := (y / 8 % 2 * 2 + x / 8) % 4

/-- The byte of a unit after the first two steps. -/
def xgWide (x y w B : Nat) : Nat := xgWiden (xgMicro x y w B) (y % 2)

/-- The offset of a unit in bytes. -/
def xgByte (x y w B : Nat) : Nat := xgSpread (xgWide x y w B) (xgTurn x y) (y / 16 % 2)

/-- `LOGBPP` is the logarithm of the legal unit sizes (R221). -/
theorem logBpp_two_pow {k : Nat} (hk : k ≤ 4) : logBpp (2 ^ k) = k := by
  interval_cases k <;> decide

theorem xgAlignedWidth_tiles {w : Nat} (hw : w % 32 = 0) : xgAlignedWidth w >>> 5 = w / 32 := by
  rw [xgAlignedWidth, clearBits_0x1F, Nat.shiftRight_eq_div_pow]
  omega

/-- R221, its bit operators read as arithmetic. -/
theorem xgOff_eq_byte_div {k w : Nat} (hk : k ≤ 4) (hw : w % 32 = 0) (x y : Nat) :
    xgOff x y w (2 ^ k) = xgByte x y w (2 ^ k) / 2 ^ k := by
  have htile : (x >>> 5 + (y >>> 5) * (w / 32)) <<< (k + 7) = xgTile x y w * 2 ^ k * 128 := by
    rw [Nat.shiftLeft_eq, Nat.shiftRight_eq_div_pow, Nat.shiftRight_eq_div_pow, xgTile, Nat.pow_add, Nat.mul_assoc]
  have hmicro : ((x &&& 7) + ((y &&& 0xE) <<< 2)) <<< k = (y / 2 % 8 * 8 + x % 8) * 2 ^ k := by
    rw [and_0x7, and_0xE, Nat.shiftLeft_eq, Nat.shiftLeft_eq]
    congr 1
    omega
  have hwiden : xgTile x y w * 2 ^ k * 128 + clearBits ((y / 2 % 8 * 8 + x % 8) * 2 ^ k) 0xF <<< 1 +
      ((y / 2 % 8 * 8 + x % 8) * 2 ^ k &&& 0xF) + ((y &&& 1) <<< 4) = xgWide x y w (2 ^ k) := by
    have hsplit : xgMicro x y w (2 ^ k) = xgTile x y w * 2 ^ k * 64 + (y / 2 % 8 * 8 + x % 8) * 2 ^ k := by
      unfold xgMicro
      ring
    rw [xgWide, hsplit, clearBits_0xF, and_0xF, Nat.and_one_is_mod, Nat.shiftLeft_eq,
      Nat.shiftLeft_eq, xgWiden]
    omega
  have hturn : (((y &&& 8) >>> 2) + (x >>> 3)) &&& 3 = xgTurn x y := by
    rw [and_0x8, and_0x3, Nat.shiftRight_eq_div_pow, Nat.shiftRight_eq_div_pow,
      xgTurn]
    omega
  have hspread : ∀ o, (clearBits o 0x1FF <<< 3) + ((y &&& 16) <<< 7) + ((o &&& 0x1C0) <<< 2) + xgTurn x y <<< 6 +
      (o &&& 0x3F) = xgSpread o (xgTurn x y) (y / 16 % 2) := fun o => by
    rw [clearBits_0x1FF, and_0x10, and_0x1C0, and_0x3F]
    simp only [Nat.shiftLeft_eq, xgSpread]
    omega
  simp only [xgOff, logBpp_two_pow hk, xgAlignedWidth_tiles hw, htile, hmicro, hwiden, hturn, hspread]
  rw [Nat.shiftRight_eq_div_pow, xgByte]

/-! ## What each step keeps -/

theorem xgSpread_fields {o c y4 : Nat} (hc : c < 4) (hy4 : y4 < 2) :
    xgSpread o c y4 / 4096 = o / 512 ∧ xgSpread o c y4 / 2048 % 2 = y4 ∧ xgSpread o c y4 / 256 % 8 = o / 64 % 8 ∧
      xgSpread o c y4 / 64 % 4 = c ∧ xgSpread o c y4 % 64 = o % 64 := by
  have hparts : ∀ {a b l : Nat}, b < 8 → l < 64 →
      (a * 4096 + y4 * 2048 + b * 256 + c * 64 + l) / 4096 = a ∧
      (a * 4096 + y4 * 2048 + b * 256 + c * 64 + l) / 2048 % 2 = y4 ∧
      (a * 4096 + y4 * 2048 + b * 256 + c * 64 + l) / 256 % 8 = b ∧
      (a * 4096 + y4 * 2048 + b * 256 + c * 64 + l) / 64 % 4 = c ∧
      (a * 4096 + y4 * 2048 + b * 256 + c * 64 + l) % 64 = l := by omega
  exact hparts (Nat.mod_lt _ (by omega)) (Nat.mod_lt _ (by omega))

theorem xgSpread_lt {o c y4 b : Nat} (hc : c < 4) (hy4 : y4 < 2) (ho : o < 512 * b) :
    xgSpread o c y4 < 4096 * b := by
  unfold xgSpread
  omega

theorem xgWiden_lt {m y0 a : Nat} (hy0 : y0 < 2) (hm : m < 16 * a) : xgWiden m y0 < 32 * a := by
  unfold xgWiden
  omega

/-- What the second step leaves of the first and of bit 0 of the row. -/
theorem xgWiden_bits {y0 : Nat} (m : Nat) (hy0 : y0 < 2) :
    xgWiden m y0 / 2 / 16 * 16 + xgWiden m y0 % 16 = m ∧ xgWiden m y0 / 16 % 2 = y0 := by
  unfold xgWiden
  omega

/-- Where the parts of a unit's place stand after the second step, for every legal unit size. -/
theorem xgWiden_parts {k T v u y0 : Nat} (hk : k ≤ 4) (hv : v < 8) (hu : u < 8) (hy0 : y0 < 2) :
    let o := xgWiden ((T * 64 + v * 8 + u) * 2 ^ k) y0
    o / 2 ^ (7 + k) = T ∧ o / 2 ^ (6 + k) % 2 = v / 4 ∧
      (o / 2 ^ 5 % 2 ^ (k + 1) * 2 ^ 5 + o % 16 * 2) / 2 ^ (3 + k) / 2 = v % 4 := by
  simp only [xgWiden]
  interval_cases k <;> omega

/-- Every step keeps multiples of the unit size. -/
theorem two_pow_dvd_xgByte {k : Nat} (hk : k ≤ 4) (x y w : Nat) : 2 ^ k ∣ xgByte x y w (2 ^ k) := by
  have hwiden : ∀ {m} y0, 2 ^ k ∣ m → 2 ^ k ∣ xgWiden m y0 := fun {m} y0 hm => by
    have h16 : 2 ^ k ∣ 2 ^ 4 := Nat.pow_dvd_pow 2 hk
    rw [xgWiden, show m / 16 * 32 + y0 * 16 = 2 ^ 4 * (m / 16 * 2 + y0) by omega]
    exact Nat.dvd_add (h16.mul_right _) ((Nat.dvd_mod_iff h16).2 hm)
  have hspread : ∀ {o} c y4, 2 ^ k ∣ o → 2 ^ k ∣ xgSpread o c y4 := fun {o} c y4 ho => by
    have h64 : 2 ^ k ∣ 2 ^ 6 := Nat.pow_dvd_pow 2 (by omega)
    rw [xgSpread, show o / 512 * 4096 + y4 * 2048 + o / 64 % 8 * 256 + c * 64 =
      2 ^ 6 * (o / 512 * 64 + y4 * 32 + o / 64 % 8 * 4 + c) by omega]
    exact Nat.dvd_add (h64.mul_right _) ((Nat.dvd_mod_iff h64).2 ho)
  exact hspread _ _ (hwiden _ (Nat.dvd_mul_left _ _))

/-! ## The inverse functions (R221) -/

section Inverse

variable {k w x y : Nat}

theorem xgOff_shiftLeft (hk : k ≤ 4) (hw : w % 32 = 0) : xgOff x y w (2 ^ k) <<< k = xgByte x y w (2 ^ k) := by
  rw [xgOff_eq_byte_div hk hw, Nat.shiftLeft_eq, Nat.div_mul_cancel (two_pow_dvd_xgByte hk x y w)]

theorem xgTurn_lt (x y : Nat) : xgTurn x y < 4 := Nat.mod_lt _ (by omega)

theorem xgTile_lt {h : Nat} (hw : w % 32 = 0) (hh : h % 32 = 0) (hx : x < w) (hy : y < h) :
    xgTile x y w < w / 32 * (h / 32) := by
  rw [xgTile, Nat.add_comm]
  exact grid_index_lt (by omega) (by omega)

/-- The tile's column and row. -/
theorem xgTile_column_row (hw : w % 32 = 0) (hx : x < w) :
    xgTile x y w % (w / 32) = x / 32 ∧ xgTile x y w / (w / 32) = y / 32 := by
  have hcolumn : x / 32 < w / 32 := by omega
  rw [xgTile, Nat.mul_comm]
  exact ⟨by rw [Nat.add_mul_mod_self_left, Nat.mod_eq_of_lt hcolumn],
    by rw [Nat.add_mul_div_left _ _ (by omega), Nat.div_eq_of_lt hcolumn, Nat.zero_add]⟩

/-- The fields of the byte offset that the inverse functions read first: they undo the third step. -/
theorem xgByte_fields (x y w B : Nat) :
    xgByte x y w B / 4096 * 512 + xgByte x y w B / 256 % 8 * 64 + xgByte x y w B % 64 = xgWide x y w B ∧
      xgByte x y w B / 64 % 4 = xgTurn x y ∧ xgByte x y w B / 2048 % 2 = y / 16 % 2 := by
  have hy4 : y / 16 % 2 < 2 := Nat.mod_lt _ (by omega)
  obtain ⟨h512, hrow, h64, hturn, hlow⟩ := xgSpread_fields (o := xgWide x y w B) (xgTurn_lt x y) hy4
  rw [xgByte]
  exact ⟨by omega, hturn, hrow⟩

theorem xgTileOffset_xgOff (hk : k ≤ 4) (hw : w % 32 = 0) :
    xgTileOffset (xgOff x y w (2 ^ k)) (2 ^ k) = xgWide x y w (2 ^ k) := by
  obtain ⟨hwide, -⟩ := xgByte_fields x y w (2 ^ k)
  simp only [xgTileOffset, logBpp_two_pow hk, xgOff_shiftLeft hk hw, clearBits_0xFFF, and_0x700, and_0x3F,
    Nat.shiftRight_eq_div_pow]
  omega

/-- The fields of the second step's byte that the inverse functions read next. -/
theorem xgWide_fields (hk : k ≤ 4) (x y w : Nat) :
    let o := xgWide x y w (2 ^ k)
    o / 2 ^ (7 + k) = xgTile x y w ∧ o / 2 ^ (6 + k) % 2 = y / 8 % 2 ∧
      (o / 2 ^ 5 % 2 ^ (k + 1) * 2 ^ 5 + o % 16 * 2) / 2 ^ (3 + k) / 2 = y / 2 % 4 := by
  obtain ⟨htile, hrow8, hrows⟩ := xgWiden_parts (T := xgTile x y w) hk (Nat.mod_lt (y / 2) (by omega : 0 < 8))
    (Nat.mod_lt x (by omega : 0 < 8)) (Nat.mod_lt y (by omega : 0 < 2))
  exact ⟨htile, hrow8.trans (by omega), hrows.trans (by omega)⟩

/-- The first step's byte gives the column in the 8 x 8 part. -/
theorem xgMicro_column (k x y w : Nat) : (xgMicro x y w (2 ^ k) &&& 2 ^ k * 2 ^ 3 - 1) / 2 ^ k = x % 8 := by
  rw [← Nat.pow_add, Nat.and_two_pow_sub_one_eq_mod, Nat.pow_add, Nat.mod_mul_right_div_self, xgMicro,
    Nat.mul_div_cancel _ (Nat.two_pow_pos k)]
  omega

theorem xgX_xgOff (hk : k ≤ 4) (hw : w % 32 = 0) (hx : x < w) : xgX (xgOff x y w (2 ^ k)) w (2 ^ k) = x := by
  obtain ⟨-, hturn, -⟩ := xgByte_fields x y w (2 ^ k)
  obtain ⟨htile, hrow8, -⟩ := xgWide_fields hk x y w
  obtain ⟨hcolumn, -⟩ := xgTile_column_row (y := y) hw hx
  obtain ⟨hmicro, -⟩ := xgWiden_bits (xgMicro x y w (2 ^ k)) (Nat.mod_lt y (by omega : 0 < 2))
  have hhalf : xgWide x y w (2 ^ k) / 2 ^ (5 + k) / 2 = xgWide x y w (2 ^ k) / 2 ^ (6 + k) := by
    rw [Nat.div_div_eq_div_mul, ← Nat.pow_succ, Nat.succ_eq_add_one, Nat.add_right_comm]
  simp only [xgX, logBpp_two_pow hk, xgAlignedWidth_tiles hw, xgOff_shiftLeft hk hw, xgTileOffset_xgOff hk hw,
    and_0x2, and_0x3, and_0xF, clearBits_0xF, Nat.shiftRight_eq_div_pow, Nat.shiftLeft_eq, Nat.pow_one, htile, hhalf,
    hrow8, hcolumn]
  rw [← xgWide] at hmicro
  rw [hmicro, xgMicro_column]
  unfold xgTurn at hturn
  omega

theorem xgY_xgOff (hk : k ≤ 4) (hw : w % 32 = 0) (hx : x < w) : xgY (xgOff x y w (2 ^ k)) w (2 ^ k) = y := by
  obtain ⟨-, -, hrow16⟩ := xgByte_fields x y w (2 ^ k)
  obtain ⟨htile, hrow8, hrows⟩ := xgWide_fields hk x y w
  obtain ⟨-, hrow32⟩ := xgTile_column_row (y := y) hw hx
  obtain ⟨-, hrow1⟩ := xgWiden_bits (xgMicro x y w (2 ^ k)) (Nat.mod_lt y (by omega : 0 < 2))
  have hmask : clearBits (2 ^ k * 2 ^ 6 - 1) 31 = (2 ^ (k + 1) - 1) * 2 ^ 5 := by
    rw [clearBits_0x1F]
    omega
  simp only [xgY, logBpp_two_pow hk, xgAlignedWidth_tiles hw, xgOff_shiftLeft hk hw, xgTileOffset_xgOff hk hw,
    and_0xF, and_0x10, and_0x800, Nat.and_one_is_mod, clearBits_0x1, Nat.shiftRight_eq_div_pow, Nat.shiftLeft_eq,
    hmask, and_mask_eq, Nat.pow_one, htile, hrow8, hrows, hrow32, hrow16]
  rw [← xgWide] at hrow1
  omega

/-! ## The range (R223) -/

/-- The height alignment makes the tiles whole groups of 4 KiB. -/
theorem xgHeightAlign_tiles {h : Nat} (hk : k ≤ 4) (hh : h % xgHeightAlign (2 ^ k) = 0) :
    h % 32 = 0 ∧ 4 ∣ h / 32 * 2 ^ k := by
  unfold xgHeightAlign at hh
  interval_cases k <;> simp at hh <;> omega

theorem xgOff_lt {h : Nat} (hk : k ≤ 4) (hw : w % 32 = 0) (hh : h % xgHeightAlign (2 ^ k) = 0) (hx : x < w)
    (hy : y < h) : xgOff x y w (2 ^ k) < w * h := by
  obtain ⟨hh32, c, hc⟩ := xgHeightAlign_tiles hk hh
  have hbytes : w / 32 * (h / 32) * 2 ^ k = 4 * (w / 32 * c) := by rw [Nat.mul_assoc, hc]; ring
  have hmicro : xgMicro x y w (2 ^ k) < 16 * (16 * (w / 32 * c)) :=
    calc xgMicro x y w (2 ^ k) < w / 32 * (h / 32) * 64 * 2 ^ k := by
          have htile := xgTile_lt hw hh32 hx hy
          exact Nat.mul_lt_mul_of_pos_right (by omega) (Nat.two_pow_pos k)
      _ = 16 * (16 * (w / 32 * c)) := by rw [Nat.mul_right_comm, hbytes]; ring
  have hwide := xgWiden_lt (Nat.mod_lt y (by omega : 0 < 2)) hmicro
  have hbyte : xgByte x y w (2 ^ k) < 4096 * (w / 32 * c) :=
    xgSpread_lt (xgTurn_lt x y) (Nat.mod_lt _ (by omega)) (by rw [xgWide]; omega)
  rw [xgOff_eq_byte_div hk hw]
  refine Nat.div_lt_of_lt_mul (hbyte.trans_eq ?_)
  calc 4096 * (w / 32 * c) = 2 ^ k * (w / 32 * 32 * (h / 32 * 32)) := by
        rw [show 4096 * (w / 32 * c) = 1024 * (4 * (w / 32 * c)) by ring, ← hbytes]; ring
    _ = 2 ^ k * (w * h) := by
        rw [Nat.div_mul_cancel (Nat.dvd_of_mod_eq_zero hw), Nat.div_mul_cancel (Nat.dvd_of_mod_eq_zero hh32)]

end Inverse

theorem exists_two_pow_of_mem {B : Nat} (hB : B ∈ [1, 2, 4, 8, 16]) : ∃ k, k ≤ 4 ∧ B = 2 ^ k := by
  simp only [List.mem_cons, List.not_mem_nil, or_false] at hB
  obtain rfl | rfl | rfl | rfl | rfl := hB
  · exact ⟨0, by omega, rfl⟩
  · exact ⟨1, by omega, rfl⟩
  · exact ⟨2, by omega, rfl⟩
  · exact ⟨3, by omega, rfl⟩
  · exact ⟨4, by omega, rfl⟩

/-- Settles O46: each step of XGOFF puts bits in between and loses none, and the inverse functions take them out in
turn. -/
theorem xgOffIsABijection : Obligations.XgOffIsABijection := by
  intro B w h x y hB hw hh hx hy
  obtain ⟨k, hk, rfl⟩ := exists_two_pow_of_mem hB
  exact ⟨xgOff_lt hk hw hh hx hy, xgX_xgOff hk hw hx, xgY_xgOff hk hw hx⟩

/-- XGOFF numbers the units of an image that the alignments of R223 allow. -/
theorem numbers_xgOff {B w h : Nat} (hB : B ∈ [1, 2, 4, 8, 16]) (hw : w % 32 = 0) (hh : h % xgHeightAlign B = 0) :
    Numbers (fun x y => xgOff x y w B) w h (w * h) where
  lt x y hx hy := (xgOffIsABijection B w h x y hB hw hh hx hy).1
  inj x y x' y' hx hy hx' hy' he := by
    obtain ⟨-, hX, hY⟩ := xgOffIsABijection B w h x y hB hw hh hx hy
    obtain ⟨-, hX', hY'⟩ := xgOffIsABijection B w h x' y' hB hw hh hx' hy'
    exact ⟨by rw [← hX, he, hX'], by rw [← hY, he, hY']⟩

end Sys2Proof.Machine
end

section
/-! The byte swap of X360 (R222). -/

namespace Sys2Proof.Machine

/-! ## Involution -/

theorem swapPairs_swapPairs (buf : List Byte) : swapPairs (swapPairs buf) = buf := by
  induction buf using swapPairs.induct with
  | case1 a b rest ih => rw [swapPairs, swapPairs, ih]
  | case2 rest h => rw [swapPairs.eq_2 rest h, swapPairs.eq_2 rest h]

theorem swapQuads_swapQuads (buf : List Byte) : swapQuads (swapQuads buf) = buf := by
  induction buf using swapQuads.induct with
  | case1 a b c d rest ih => rw [swapQuads, swapQuads, ih]
  | case2 rest h => rw [swapQuads.eq_2 rest h, swapQuads.eq_2 rest h]

theorem swapBytes_swapBytes (unit : Nat) (buf : List Byte) : swapBytes unit (swapBytes unit buf) = buf := by
  unfold swapBytes
  split
  · exact swapPairs_swapPairs buf
  · split
    · exact swapQuads_swapQuads buf
    · rfl

/-! ## Where a byte goes -/

/-- XOR with a mask of `k` bits stays in its group of `2 ^ k` places. -/
theorem xor_div_two_pow_of_lt {k m : Nat} (hm : m < 2 ^ k) (j : Nat) : (j ^^^ m) / 2 ^ k = j / 2 ^ k := by
  rw [Nat.xor_div_two_pow, Nat.div_eq_of_lt hm, Nat.xor_zero]

/-- XOR with a mask of `k` bits does the same in every group. -/
theorem add_two_pow_xor {k m : Nat} (hm : m < 2 ^ k) (j : Nat) : (j + 2 ^ k) ^^^ m = (j ^^^ m) + 2 ^ k := by
  have hlow : ((j + 2 ^ k) ^^^ m) % 2 ^ k = (j ^^^ m) % 2 ^ k := by
    rw [Nat.xor_mod_two_pow, Nat.xor_mod_two_pow, Nat.add_mod_right]
  rw [← Nat.div_add_mod' ((j + 2 ^ k) ^^^ m) (2 ^ k), ← Nat.div_add_mod' (j ^^^ m) (2 ^ k), hlow,
    xor_div_two_pow_of_lt hm, xor_div_two_pow_of_lt hm, Nat.add_div_right _ (Nat.two_pow_pos k), Nat.succ_mul]
  omega

theorem add_two_xor_one (j : Nat) : (j + 2) ^^^ 1 = (j ^^^ 1) + 2 := add_two_pow_xor (k := 1) (by omega) j

theorem add_four_xor_three (j : Nat) : (j + 4) ^^^ 3 = (j ^^^ 3) + 4 := add_two_pow_xor (k := 2) (by omega) j

theorem getD_swapPairs (buf : List Byte) (heven : buf.length % 2 = 0) (j : Nat) :
    (swapPairs buf).getD (j ^^^ 1) 0 = buf.getD j 0 := by
  induction buf using swapPairs.induct generalizing j with
  | case1 a b rest ih =>
    match j with
    | 0 | 1 => rfl
    | j + 2 =>
      rw [add_two_xor_one, swapPairs]
      simp only [List.length_cons] at heven
      exact ih (by omega) j
  | case2 rest h =>
    match rest, h with
    | [], _ => rfl
    | [_], _ => simp at heven
    | a :: b :: rest, h => exact absurd rfl (h a b rest)

theorem getD_swapQuads (buf : List Byte) (hwhole : buf.length % 4 = 0) (j : Nat) :
    (swapQuads buf).getD (j ^^^ 3) 0 = buf.getD j 0 := by
  induction buf using swapQuads.induct generalizing j with
  | case1 a b c d rest ih =>
    match j with
    | 0 | 1 | 2 | 3 => rfl
    | j + 4 =>
      rw [add_four_xor_three, swapQuads]
      simp only [List.length_cons] at hwhole
      exact ih (by omega) j
  | case2 rest h =>
    match rest, h with
    | [], _ => rfl
    | [_], _ | [_, _], _ | [_, _, _], _ => simp at hwhole
    | a :: b :: c :: d :: rest, h => exact absurd rfl (h a b c d rest)

/-- R222: the byte at position `j` goes to the place its group says. -/
theorem getD_swapBytes (unit : Nat) {buf : List Byte} (hwhole : buf.length % 4 = 0) (j : Nat) :
    (swapBytes unit buf).getD (swapPlace unit j) 0 = buf.getD j 0 := by
  unfold swapBytes swapPlace
  split
  · exact getD_swapPairs buf (by omega) j
  · split
    · exact getD_swapQuads buf hwhole j
    · rfl

/-- Settles O56: group by group. -/
theorem byteSwapIsAnInvolution : Obligations.ByteSwapIsAnInvolution :=
  fun unit buf => ⟨swapBytes_swapBytes unit buf, length_swapBytes unit buf,
    fun _ hwhole j _ => getD_swapBytes unit hwhole j⟩

@[simp] theorem swapPlace_swapPlace (unit j : Nat) : swapPlace unit (swapPlace unit j) = j := by
  unfold swapPlace
  split_ifs
  · exact Nat.xor_xor_cancel_right j 1
  · exact Nat.xor_xor_cancel_right j 3
  · rfl

/-- The swap stays inside a buffer of whole groups. -/
theorem swapPlace_lt (unit : Nat) {j n : Nat} (hn : n % 4 = 0) (hj : j < n) : swapPlace unit j < n := by
  have hgroup : swapPlace unit j / 2 ^ 2 = j / 2 ^ 2 := by
    unfold swapPlace
    split_ifs
    · exact xor_div_two_pow_of_lt (by omega) j
    · exact xor_div_two_pow_of_lt (by omega) j
    · rfl
  omega

end Sys2Proof.Machine
end

section
/-! Remaps that hold the units in another order than the grid's, and remaps after any function of the bytes (R122,
R126). -/

namespace Sys2Proof.Machine

/-! ## A remap with checks -/

/-- A remap runs its family's checks, then stage 4 of R126, and then stores its output. -/
theorem remap_checked (s : State) {family : List Check} {srcLen outLen : Nat} {out : List Byte}
    {effect : State → Prop}
    (heffect : firstError family = none → s.regs.params.srcLen = srcLen → outLen < 2 ^ 64 →
      effect (s.succeedOutput out)) :
    let t := s.complete (remapResult (family ++ bufferChecks s.regs.params srcLen outLen) out)
    ChecksRun s t family (BufferChecked s t srcLen outLen (effect t)) := by
  refine checksRun_complete (fun e he => remapResult_append_of_error he _ _) fun hnone => ?_
  rw [remapResult_append_of_none hnone]
  exact bufferChecked_remap (cs := []) (rest := effect) fun hlen hfit _ => heffect hnone hlen hfit

/-! ## The same units under other names -/

variable {ι κ : Type}

/-- `f` names the units of `m` by those of `m'`, each one at the same places. -/
structure UnitMap.Renames (m' : UnitMap κ) (m : UnitMap ι) (f : κ → ι) : Prop where
  domain : ∀ v, m'.inDomain v → m.inDomain (f v)
  onto : ∀ u, m.inDomain u → ∃ v, m'.inDomain v ∧ f v = u
  lin : ∀ v, m'.inDomain v → m.lin (f v) = m'.lin v
  place : ∀ v k, m'.inDomain v → m.place (f v) k = m'.place v k
  unit : m'.unit = m.unit
  linLen : m'.linLen = m.linLen
  swzLen : m'.swzLen = m.swzLen

variable {m : UnitMap ι} {m' : UnitMap κ} {f : κ → ι} {s t : State}

theorem UnswzEffect.rename (h : UnswzEffect m s t) (hf : m'.Renames m f) : UnswzEffect m' s t where
  output := hf.linLen ▸ h.output
  units v hv k hk := by
    rw [← hf.lin v hv, ← hf.place v k hv, hf.unit]
    exact h.units (f v) (hf.domain v hv) k (hf.unit ▸ hk)

theorem SwzEffect.rename (h : SwzEffect m s t) (hf : m'.Renames m f) : SwzEffect m' s t where
  output := hf.swzLen ▸ h.output
  units v hv k hk := by
    rw [← hf.lin v hv, ← hf.place v k hv, hf.unit]
    exact h.units (f v) (hf.domain v hv) k (hf.unit ▸ hk)
  padding j hj hfree := by
    refine h.padding j (hf.swzLen ▸ hj) fun u hu k hk => ?_
    obtain ⟨v, hv, rfl⟩ := hf.onto u hu
    rw [hf.place v k hv]
    exact hfree v hv k (hf.unit.symm ▸ hk)

/-! ## A layout given by its index (R211, R215) -/

/-- The units by their swizzled position, `J` giving the linear position of each. -/
def indexMap (w h B : Nat) (J : Nat → Nat) : UnitMap Nat :=
  ⟨fun n => n < w * h, J, fun n k => n * B + k, B, w * h * B, w * h * B⟩

/-- Where `J` and `I` are inverse, a unit of the grid is named by its swizzled position. -/
theorem indexMap_renames {w h : Nat} (B : Nat) {I : Nat → Nat → Nat} {J : Nat → Nat}
    (hI : ∀ x y, x < w → y < h → I x y < w * h) (hJ : ∀ n, n < w * h → J n < w * h)
    (hinv : ∀ {n x y}, n < w * h → x < w → y < h → (J n = y * w + x ↔ n = I x y)) :
    (indexMap w h B J).Renames (gridMap w h B (w * h * B) fun x y => I x y * B) fun n => (J n % w, J n / w) where
  domain n hn := grid_column_lt (hJ n hn)
  onto u hu := by
    obtain ⟨x, y⟩ := u
    obtain ⟨hx, hy⟩ : x < w ∧ y < h := hu
    have hn := hI x y hx hy
    have hJn := (hinv hn hx hy).2 rfl
    obtain ⟨hcolumn, hrow⟩ := grid_column_lt (hJ _ hn)
    obtain ⟨hxx, hyy⟩ := (numbers_rowMajor w h).inj _ _ x y hcolumn hrow hx hy ((Nat.div_add_mod' _ w).trans hJn)
    exact ⟨I x y, hn, Prod.ext hxx hyy⟩
  lin n _ := Nat.div_add_mod' (J n) w
  place n k hn := by
    obtain ⟨hcolumn, hrow⟩ := grid_column_lt (hJ n hn)
    have hplace := (hinv hn hcolumn hrow).1 (Nat.div_add_mod' (J n) w).symm
    change I (J n % w) (J n / w) * B + k = n * B + k
    rw [← hplace]
  unit := rfl
  linLen := rfl
  swzLen := rfl

end Sys2Proof.Machine
end

section
/-! The statements about the whole-image Morton layouts: MORTON and MORTONR. -/

namespace Sys2Proof.Machine

theorem isPow2_iff {n : Nat} : isPow2 n = true ↔ ∃ a, n = 2 ^ a := by
  constructor
  · exact fun h => ⟨_, eq_two_pow_of_isPow2 h⟩
  · rintro ⟨a, rfl⟩
    simp [isPow2]

/-- The checks of R211 and R215. -/
theorem mortonChecks_run {s t : State} {rest : Prop} : ChecksRun s t (mortonChecks s.regs.params) rest ↔
    (SizeChecked s t <| BlockChecked s t <| Checked s t
      (¬ ((∃ a, s.regs.params.unitsW = 2 ^ a) ∧ ∃ b, s.regs.params.unitsH = 2 ^ b)) (.ig 0x04) rest) := by
  simp only [ChecksRun, mortonChecks, SizeChecked, BlockChecked, checkSize_fails, checkSize_err, checkBlock_fails,
    checkBlock_err, ← isPow2_iff, Bool.or_eq_true, Bool.not_eq_true', not_and_or, Bool.not_eq_true]

variable {p : Params}

/-- R211: MORTON's layout holds linear unit `MIDX(t)` at swizzled unit `t`. -/
theorem mortonLayout_by_midx (h : firstError (mortonChecks p) = none) :
    (indexMap p.unitsW p.unitsH p.unitBytes fun n => midx n p.unitsW p.unitsH).Renames
      (gridMap p.unitsW p.unitsH p.unitBytes (p.unitsW * p.unitsH * p.unitBytes) (mortonAddr p))
      fun n => (midx n p.unitsW p.unitsH % p.unitsW, midx n p.unitsW p.unitsH / p.unitsW) := by
  obtain ⟨a, b, hw, hh, -⟩ := geometry_of_mortonChecks h
  unfold mortonAddr
  rw [hw, hh]
  exact indexMap_renames _ (numbers_ilv a b).lt (fun n _ => midx_lt n Nat.one_le_two_pow Nat.one_le_two_pow) midx_eq_iff

/-- R215: MORTONR's layout holds linear unit `MIDXR(t)` at swizzled unit `t`. -/
theorem mortonRLayout_by_midxr (h : firstError (mortonChecks p) = none) :
    (indexMap p.unitsW p.unitsH p.unitBytes fun n => midxr n p.unitsW p.unitsH).Renames
      (gridMap p.unitsW p.unitsH p.unitBytes (p.unitsW * p.unitsH * p.unitBytes) (mortonRAddr p))
      fun n => (midxr n p.unitsW p.unitsH % p.unitsW, midxr n p.unitsW p.unitsH / p.unitsW) := by
  obtain ⟨a, b, hw, hh, -⟩ := geometry_of_mortonChecks h
  unfold mortonRAddr
  rw [hw, hh]
  exact indexMap_renames _ (numbers_ilvr a b).lt (fun n _ => midxr_lt n Nat.one_le_two_pow Nat.one_le_two_pow)
    midxr_eq_iff

/-- Settles O22: where the checks of R211 pass, the grid of ILV (ILVR) is placed and apart, and MIDX (MIDXR) names its
units by their swizzled positions. -/
theorem mortonRemapsFollowTheMortonIndex : Obligations.MortonRemapsFollowTheMortonIndex := by
  refine ⟨decode_encode .mortonUnswz, decode_encode .mortonSwz, decode_encode .mortonRUnswz, decode_encode .mortonRSwz,
    fun s => ⟨⟨_, rfl, mortonChecks_run.1 (remap_checked s fun h hlen hfit => ?_)⟩,
      ⟨_, rfl, mortonChecks_run.1 (remap_checked s fun h hlen hfit => ?_)⟩,
      ⟨_, rfl, mortonChecks_run.1 (remap_checked s fun h hlen hfit => ?_)⟩,
      ⟨_, rfl, mortonChecks_run.1 (remap_checked s fun h hlen hfit => ?_)⟩⟩⟩
  · obtain ⟨hplaced, -⟩ := mortonLayout_placed_apart h
    exact (unswizzle_effect hplaced hlen hfit).rename (mortonLayout_by_midx h)
  · obtain ⟨hplaced, hapart⟩ := mortonLayout_placed_apart h
    exact (swizzle_effect hplaced hapart hlen hfit).rename (mortonLayout_by_midx h)
  · obtain ⟨hplaced, -⟩ := mortonRLayout_placed_apart h
    exact (unswizzle_effect hplaced hlen hfit).rename (mortonRLayout_by_midxr h)
  · obtain ⟨hplaced, hapart⟩ := mortonRLayout_placed_apart h
    exact (swizzle_effect hplaced hapart hlen hfit).rename (mortonRLayout_by_midxr h)

/-- Settles O23: the generic `.ADDR` after the checks of R211. -/
theorem mortonAddrReturnsTheInterleavedIndex : Obligations.MortonAddrReturnsTheInterleavedIndex :=
  ⟨decode_encode .mortonAddr, decode_encode .mortonRAddr, fun s =>
    ⟨⟨_, rfl, mortonChecks_run.1 (genericAddr_checked s _ _ _ (mortonAddr s.regs.params))⟩,
      ⟨_, rfl, mortonChecks_run.1 (genericAddr_checked s _ _ _ (mortonRAddr s.regs.params))⟩⟩⟩

end Sys2Proof.Machine
end

section
/-! The statements about the tiled-Morton layouts: PS4 and PS5. -/

namespace Sys2Proof.Machine

/-- Settles O47: full tiles are woven, edge tiles row-major, and no tile leaves a gap. -/
theorem tiledMortonIsABijection : Obligations.TiledMortonIsABijection := fun p q w h =>
  ⟨fun x y B => tmAddr_eq_index_mul _ _ w h B x y, (numbers_tmAddr p q w h).lt, (numbers_tmAddr p q w h).inj⟩

/-! ## PS4 -/

/-- The checks of R230. -/
theorem ps4Checks_run {s t : State} {rest : Prop} : ChecksRun s t (ps4Checks s.regs.params) rest ↔
    (SizeChecked s t <| BlockChecked s t rest) := by
  simp [ChecksRun, ps4Checks, SizeChecked, BlockChecked]

/-- Settles O26: the layout `TM(8, 8)` is placed and apart where the checks of R230 pass. -/
theorem ps4RemapsUse8x8SuperTiles : Obligations.Ps4RemapsUse8x8SuperTiles :=
  ⟨decode_encode .ps4Unswz, decode_encode .ps4Swz, fun s =>
    ⟨⟨_, rfl, ps4Checks_run.1 (genericUnswz_checked s fun h => (ps4Layout_placed_apart h).1)⟩,
      ⟨_, rfl, ps4Checks_run.1 (genericSwz_checked s ps4Layout_placed_apart)⟩⟩⟩

/-- Settles O27: the generic `.ADDR` after the checks of R230. -/
theorem ps4AddrInSuperTiledOrder : Obligations.Ps4AddrInSuperTiledOrder :=
  ⟨decode_encode .ps4Addr, fun s => ⟨_, rfl, ps4Checks_run.1 (genericAddr_checked s _ _ _ (ps4Addr s.regs.params))⟩⟩

/-! ## PS5 -/

/-- The checks of R237: where there is no super-tile the command ends, and what follows may depend on it. -/
theorem ps5Checks_run {s t : State} {o : Option Ps5Tile} {rest : Ps5Tile → Prop}
    (h : ChecksRun s t (ps5Checks o s.regs.params) (rest (ps5TileOr o))) :
    (o = none ∧ ErrorEffect s t (.up 0x23)) ∨
      ∃ tile, o = some tile ∧ (SizeChecked s t <| BlockChecked s t (rest tile)) := by
  cases o with
  | none => simpa [ChecksRun, ps5Checks, Checked] using h
  | some tile =>
    refine .inr ⟨tile, rfl, ?_⟩
    simpa [ChecksRun, ps5Checks, Checked, SizeChecked, BlockChecked, ps5TileOr] using h

/-- R237: either super-tile has sides of powers of two. -/
theorem ps5Layout_placed_apart {o : Option Ps5Tile} {p : Params} (h : firstError (ps5Checks o p) = none) :
    (ps5Layout o p).Placed ∧ (ps5Layout o p).Apart := by
  simp only [firstError_eq_none, ps5Checks, List.forall_mem_cons] at h
  obtain ⟨-, -, hblock, -⟩ := h
  unfold ps5Layout
  cases ps5TileOr o with
  | tile32x16 => exact tmLayout_placed_apart 5 4 (unitBytes_pos hblock)
  | tile16x16 => exact tmLayout_placed_apart 4 4 (unitBytes_pos hblock)

/-- The address function of either super-tile as the statements write it (R237). -/
theorem tmAddr_ps5Tile (tile : Ps5Tile) :
    tmAddr (if tile = .tile32x16 then 32 else 16) 16 = tmAddr (ps5TileW tile) (ps5TileH tile) := by
  cases tile <;> rfl

/-- Settles O28: where `PS5_TILE(B)` is defined, its layout is placed and apart. -/
theorem ps5RemapsUseTheOpenSuperTile : Obligations.Ps5RemapsUseTheOpenSuperTile := by
  simp only [Obligations.Ps5RemapsUseTheOpenSuperTile, tmAddr_ps5Tile]
  exact ⟨decode_encode .ps5Unswz, decode_encode .ps5Swz, fun s =>
    ⟨⟨_, rfl, ps5Checks_run (genericUnswz_checked s fun h => (ps5Layout_placed_apart h).1)⟩,
      ⟨_, rfl, ps5Checks_run (genericSwz_checked s ps5Layout_placed_apart)⟩⟩⟩

/-- Settles O29: the generic `.ADDR` after the checks of R237. -/
theorem ps5AddrInSuperTiledOrder : Obligations.Ps5AddrInSuperTiledOrder := by
  simp only [Obligations.Ps5AddrInSuperTiledOrder, tmAddr_ps5Tile]
  exact ⟨decode_encode .ps5Addr, fun s => ⟨_, rfl, ps5Checks_run (genericAddr_checked s _ _ _ (ps5Addr _ _))⟩⟩

end Sys2Proof.Machine
end

section
/-! X360: the byte swap on the swizzled side of the tiling (R220, R225). -/

namespace Sys2Proof.Machine

/-! ## Outputs on memory -/

variable {ι : Type} {m : UnitMap ι} {s : State}

theorem State.succeedOutput_read (s : State) {out : List Byte} {j : Nat} (h : j < out.length) :
    (s.succeedOutput out).mem.read (s.regs.params.dstBase + j) = out.getD j 0 := by
  rw [State.succeedOutput_mem, Memory.read_writeBytes_of_mem h]
  rfl

/-- The swapped buffer holds at `j` what the buffer holds where the swap takes `j`. -/
theorem getD_swapBytes_eq (unit : Nat) {buf : List Byte} (hwhole : buf.length % 4 = 0) (j : Nat) :
    (swapBytes unit buf).getD j 0 = buf.getD (swapPlace unit j) 0 := by
  rw [← getD_swapBytes unit hwhole (swapPlace unit j), swapPlace_swapPlace]

/-- The units of `m` with each byte of the swizzled buffer moved by the swap (R225). -/
def UnitMap.swapped (m : UnitMap ι) (unit : Nat) : UnitMap ι :=
  { m with place := fun u k => swapPlace unit (m.place u k) }

/-- R225: a `.SWZ` whose output is swapped before it is stored keeps every byte at the place the swap gives it. -/
theorem SwzEffect.swap {out : List Byte} (h : SwzEffect m s (s.succeedOutput out)) (unit : Nat)
    (hlen : out.length = m.swzLen) (hwhole : m.swzLen % 4 = 0)
    (hplaced : ∀ u, m.inDomain u → ∀ k, k < m.unit → m.place u k < m.swzLen) :
    SwzEffect (m.swapped unit) s (s.succeedOutput (swapBytes unit out)) := by
  have hlen' : (swapBytes unit out).length = m.swzLen := (length_swapBytes ..).trans hlen
  have hread : ∀ {j}, j < m.swzLen →
      (s.succeedOutput (swapBytes unit out)).mem.read (s.regs.params.dstBase + swapPlace unit j) =
        (s.succeedOutput out).mem.read (s.regs.params.dstBase + j) := fun {j} hj => by
    rw [s.succeedOutput_read (hlen'.symm ▸ swapPlace_lt unit hwhole hj), s.succeedOutput_read (hlen.symm ▸ hj),
      getD_swapBytes unit (hlen.symm ▸ hwhole)]
  refine ⟨?_, fun u hu k hk => ?_, fun j hj hfree => ?_⟩
  · have hframe := s.succeedOutput_frame (hlen'.trans_lt h.output.fits)
    rwa [hlen'] at hframe
  · exact (hread (hplaced u hu k hk)).trans (h.units u hu k hk)
  · rw [← swapPlace_swapPlace unit j, hread (swapPlace_lt unit hwhole hj)]
    refine h.padding _ (swapPlace_lt unit hwhole hj) fun u hu k hk he => hfree u hu k hk ?_
    change swapPlace unit (m.place u k) = j
    rw [he, swapPlace_swapPlace]

variable {w h B L : Nat} {A : Nat → Nat → Nat}

/-- A placed grid keeps every byte of its units inside the swizzled buffer (R121). -/
theorem gridMap_place_lt (hp : (gridLayout w h B L A).Placed) (u : Nat × Nat) (hu : (gridMap w h B L A).inDomain u)
    (k : Nat) (hk : k < B) : (gridMap w h B L A).place u k < L := by
  obtain ⟨hx, hy⟩ : u.1 < w ∧ u.2 < h := hu
  have hend := hp _ (grid_index_lt hx hy)
  rw [gridLayout_addr hx] at hend
  exact (Nat.add_lt_add_left hk _).trans_le hend

/-- R225: an `.UNSWZ` of the swapped source takes every byte from the place the swap gives it. -/
theorem unswizzle_swap_effect (unit : Nat) (hp : (gridLayout w h B L A).Placed) (hlen : s.regs.params.srcLen = L)
    (hwhole : L % 4 = 0) (hfit : w * h * B < 2 ^ 64) :
    UnswzEffect ((gridMap w h B L A).swapped unit) s
      (s.succeedOutput (unswizzle 0 (gridLayout w h B L A) (swapBytes unit s.source))) := by
  have hl : (unswizzle 0 (gridLayout w h B L A) (swapBytes unit s.source)).length = w * h * B := length_unswizzle ..
  have hsrc : s.source.length % 4 = 0 := by rw [s.length_source, hlen, hwhole]
  refine ⟨?_, ?_⟩
  · have hframe := s.succeedOutput_frame (hl.trans_lt hfit)
    rwa [hl] at hframe
  · rintro ⟨x, y⟩ hu k hk
    obtain ⟨hx, hy⟩ : x < w ∧ y < h := hu
    replace hk : k < B := hk
    have hi := grid_index_lt hx hy
    have hplace : A x y + k < L := gridMap_place_lt hp (x, y) ⟨hx, hy⟩ k hk
    have hunit := getD_unswizzle (0 : Byte) (gridLayout w h B L A) (swapBytes unit s.source) hi hk
    rw [gridLayout_addr hx, gridLayout_unit] at hunit
    have hbound : (y * w + x) * B + k < w * h * B := digits_lt hi hk
    calc (s.succeedOutput _).mem.read (s.regs.params.dstBase + ((y * w + x) * B + k))
        = (unswizzle 0 (gridLayout w h B L A) (swapBytes unit s.source)).getD ((y * w + x) * B + k) 0 :=
          s.succeedOutput_read (hl.symm ▸ hbound)
      _ = (swapBytes unit s.source).getD (A x y + k) 0 := hunit
      _ = s.source.getD (swapPlace unit (A x y + k)) 0 := getD_swapBytes_eq unit hsrc _
      _ = s.mem.read (s.regs.params.srcBase + swapPlace unit (A x y + k)) :=
          s.getD_source (hlen.symm ▸ swapPlace_lt unit hwhole hplace)

end Sys2Proof.Machine
end

section
/-! The statements about X360. -/

namespace Sys2Proof.Machine

/-- The checks of R220 that every command runs. -/
theorem x360Checks_run {s t : State} {rest : Prop} : ChecksRun s t (x360Checks s.regs.params) rest ↔
    (Checked s t (s.regs.params.unitBytes ∉ [1, 2, 4, 8, 16]) (.up 0x13) <| SizeChecked s t <| BlockChecked s t <|
      Checked s t (s.regs.params.unitsW % 32 ≠ 0 ∨
        s.regs.params.unitsH % xgHeightAlign s.regs.params.unitBytes ≠ 0) (.ig 0x05) rest) := by
  simp [ChecksRun, x360Checks, SizeChecked, BlockChecked]

/-- The checks of R220 that the remaps run: UP 0x12 comes first. -/
theorem x360RemapChecks_run {s t : State} {rest : Prop} :
    ChecksRun s t (x360SwapCheck s.regs.params :: x360Checks s.regs.params) rest ↔
      (Checked s t (2 < s.regs.params.swapUnit.toNat) (.up 0x12) <|
        Checked s t (s.regs.params.unitBytes ∉ [1, 2, 4, 8, 16]) (.up 0x13) <| SizeChecked s t <| BlockChecked s t <|
        Checked s t (s.regs.params.unitsW % 32 ≠ 0 ∨
          s.regs.params.unitsH % xgHeightAlign s.regs.params.unitBytes ≠ 0) (.ig 0x05) rest) := by
  rw [← x360Checks_run, ChecksRun, x360SwapCheck, decide_eq_true_eq]

variable {p : Params}

/-- What an image that passes the checks of R220 is. -/
theorem geometry_of_x360Checks (h : firstError (x360Checks p) = none) :
    p.unitBytes ∈ [1, 2, 4, 8, 16] ∧ p.unitsW % 32 = 0 ∧ p.unitsH % xgHeightAlign p.unitBytes = 0 := by
  simp only [firstError_eq_none, x360Checks, List.forall_mem_cons, Bool.or_eq_false_iff, bne_eq_false_iff_eq,
    Bool.not_eq_false', List.contains_eq_mem, decide_eq_true_eq] at h
  obtain ⟨hunit, -, -, ⟨hwidth, hheight⟩, -⟩ := h
  exact ⟨hunit, hwidth, hheight⟩

/-- R223: the tiling is a bijection. -/
theorem x360Layout_placed_apart (h : firstError (x360Checks p) = none) :
    (x360Layout p).Placed ∧ (x360Layout p).Apart := by
  obtain ⟨hunit, hwidth, hheight⟩ := geometry_of_x360Checks h
  exact (numbers_xgOff hunit hwidth hheight).layout ((by decide : ∀ n ∈ [1, 2, 4, 8, 16], 0 < n) _ hunit)

/-- The buffers hold whole groups of the byte swap (R222). -/
theorem x360_length_whole (h : firstError (x360Checks p) = none) : p.unitsW * p.unitsH * p.unitBytes % 4 = 0 := by
  obtain ⟨-, hwidth, -⟩ := geometry_of_x360Checks h
  have hdvd : 4 ∣ p.unitsW := (by decide : 4 ∣ 32).trans (Nat.dvd_of_mod_eq_zero hwidth)
  exact Nat.mod_eq_zero_of_dvd ((hdvd.mul_right _).mul_right _)

theorem firstError_tail_eq_none {c : Check} {cs : List Check} (h : firstError (c :: cs) = none) :
    firstError cs = none :=
  firstError_eq_none.2 (List.forall_mem_cons.1 (firstError_eq_none.1 h)).2

/-- Settles O24: the tiling is placed and apart where the checks of R220 pass, and the swap moves bytes inside the
swizzled buffer, which holds whole groups. -/
theorem x360RemapsTileAndSwap : Obligations.X360RemapsTileAndSwap := by
  refine ⟨decode_encode .x360Unswz, decode_encode .x360Swz, fun s =>
    ⟨⟨_, rfl, x360RemapChecks_run.1 (remap_checked s fun h hlen hfit => ?_)⟩,
      ⟨_, rfl, x360RemapChecks_run.1 (remap_checked s fun h hlen hfit => ?_)⟩⟩⟩
  · replace h := firstError_tail_eq_none h
    obtain ⟨hplaced, -⟩ := x360Layout_placed_apart h
    exact unswizzle_swap_effect _ hplaced hlen (x360_length_whole h) hfit
  · replace h := firstError_tail_eq_none h
    obtain ⟨hplaced, hapart⟩ := x360Layout_placed_apart h
    exact (swizzle_effect hplaced hapart hlen hfit).swap _ (length_swizzle ..) (x360_length_whole h)
      (gridMap_place_lt hplaced)

/-- Settles O25: the generic `.ADDR` after the checks of R220 but UP 0x12. -/
theorem x360AddrIgnoresTheSwap : Obligations.X360AddrIgnoresTheSwap :=
  ⟨decode_encode .x360Addr, fun s =>
    ⟨_, rfl, x360Checks_run.1 (genericAddr_checked s _ _ _ (x360Addr s.regs.params))⟩⟩

end Sys2Proof.Machine
end

section
/-! The round trips of X360 (R224, R225) and of the families with OPEN parameters (R134, R238, R273, R336). -/

namespace Sys2Proof.Machine

/-- What it takes for a remap to pass its checks: those of its family, and enough of stage 4 of R126. -/
theorem firstError_family_and_buffers {family : List Check} {p : Params} {srcLen outLen : Nat}
    (h : firstError (family ++ bufferChecks p srcLen outLen) = none) :
    firstError family = none ∧ p.srcLen = srcLen ∧ outLen < 2 ^ 64 := by
  rw [firstError_append, Option.or_eq_none_iff, firstError_bufferChecks] at h
  obtain ⟨hfamily, hsrc, hcap, -⟩ := h
  exact ⟨hfamily, hsrc, hcap.trans_lt (pair_lt _ _)⟩

/-! ## X360 -/

/-- R225: the swap of the second command undoes that of the first, and then the untiling the tiling. -/
theorem x360_execRoundTrips : ExecRoundTrips .x360Swz .x360Unswz := by
  refine ⟨_, _, fun _ => rfl, fun _ => rfl, roundTrips_of_inverse
    (fun p => (x360SwapCheck p :: x360Checks p) ++ bufferChecks p (x360Layout p).linLen (x360Layout p).swzLen)
    (fun p => (x360SwapCheck p :: x360Checks p) ++ bufferChecks p (x360Layout p).swzLen (x360Layout p).linLen)
    (fun p src => swapBytes p.swapUnit.toNat (swizzle 0 (x360Layout p) src))
    (fun p src => unswizzle 0 (x360Layout p) (swapBytes p.swapUnit.toNat src))
    (fun _ => rfl) (fun _ => rfl) (fun p src hpass => ?_) fun p src a n b c hpass hsrc _ => ?_⟩
  · obtain ⟨-, -, hfit⟩ := firstError_family_and_buffers hpass
    rwa [length_swapBytes, length_swizzle]
  · obtain ⟨hfamily, hlen, -⟩ := firstError_family_and_buffers hpass
    obtain ⟨hplaced, hapart⟩ := x360Layout_placed_apart (firstError_tail_eq_none hfamily)
    change unswizzle 0 (x360Layout p) (swapBytes p.swapUnit.toNat (swapBytes p.swapUnit.toNat _)) = src
    rw [swapBytes_swapBytes, unswizzle_swizzle 0 hplaced hapart (hsrc.trans hlen)]

/-- Settles O53: tiling and byte swap cancel. -/
theorem x360RoundTripThroughMemory : Obligations.X360RoundTripThroughMemory := by
  intro s t u base cap ht hstatus hu hstatus'
  obtain ⟨swz, unswz, hswz, hunswz, htrips⟩ := x360_execRoundTrips
  exact htrips s t _ u base cap (Host.Outcome.next.inj ((hswz s).symm.trans ht)) hstatus rfl
    (Host.Outcome.next.inj ((hunswz _).symm.trans hu)) hstatus'

/-! ## PS5 -/

/-- R238, whichever super-tile `PS5_TILE(B)` gives. -/
theorem ps5_roundTrips (o : Option Ps5Tile) : RoundTrips (ps5Swz o) (ps5Unswz o) :=
  roundTrips_generic (ps5Checks o) (ps5Layout o) ps5Layout_placed_apart fun _ _ _ _ _ _ => rfl

/-! ## PS2.4 -/

theorem byteOfNibbles_low_high (b : Byte) : byteOfNibbles (lowNibble b) (highNibble b) = b := by
  apply BitVec.eq_of_toNat_eq
  have hb := b.isLt
  simp only [byteOfNibbles, lowNibble, highNibble, BitVec.toNat_ofNat]
  omega

theorem nibbles_byteOfNibbles (lo hi : Nibble) :
    lowNibble (byteOfNibbles lo hi) = lo ∧ highNibble (byteOfNibbles lo hi) = hi := by
  have hlo := lo.isLt
  have hhi := hi.isLt
  constructor <;> apply BitVec.eq_of_toNat_eq <;>
    simp only [byteOfNibbles, lowNibble, highNibble, BitVec.toNat_ofNat] <;> omega

theorem ofNibbles_toNibbles (bs : List Byte) : ofNibbles (toNibbles bs) = bs := by
  induction bs with
  | nil => rfl
  | cons b bs ih => rw [toNibbles, ofNibbles, byteOfNibbles_low_high, ih]

theorem toNibbles_ofNibbles (texels : List Nibble) (heven : texels.length % 2 = 0) :
    toNibbles (ofNibbles texels) = texels := by
  induction texels using ofNibbles.induct with
  | case1 lo hi rest ih =>
    obtain ⟨hlow, hhigh⟩ := nibbles_byteOfNibbles lo hi
    simp only [List.length_cons] at heven
    rw [ofNibbles, toNibbles, hlow, hhigh, ih (by omega)]
  | case2 texels h =>
    match texels, h with
    | [], _ => rfl
    | [_], _ => simp at heven
    | lo :: hi :: rest, h => exact absurd rfl (h lo hi rest)

@[simp] theorem length_toNibbles (bs : List Byte) : (toNibbles bs).length = 2 * bs.length := by
  induction bs with
  | nil => rfl
  | cons b bs ih => simp only [toNibbles, List.length_cons, ih]; omega

/-- What passes the checks of a PS2.4 remap: the range check has found the layout placed and apart (R134). -/
theorem ps24RemapChecks_pass {f : Ps24Functions} {p : Params} (h : firstError (ps24RemapChecks f p) = none) :
    ps24Texels p % 2 = 0 ∧ p.srcLen = ps24Texels p / 2 ∧ ps24Texels p / 2 < 2 ^ 64 ∧
      (ps24Layout f p).Placed ∧ (ps24Layout f p).Apart := by
  rw [ps24RemapChecks, firstError_append, Option.or_eq_none_iff] at h
  obtain ⟨hbefore, hrange⟩ := h
  obtain ⟨hfamily, hsrc, hfit⟩ := firstError_family_and_buffers hbefore
  simp only [firstError_eq_none, ps24Checks, ps24RangeCheck, List.forall_mem_cons, Bool.or_eq_false_iff,
    bne_eq_false_iff_eq, Bool.not_eq_false', Bool.and_eq_true, Layout.placedTest_iff, Layout.apartTest_iff]
    at hfamily hrange
  obtain ⟨-, -, ⟨heven, -⟩, -⟩ := hfamily
  obtain ⟨⟨hplaced, hapart⟩, -⟩ := hrange
  exact ⟨heven, hsrc, hfit, hplaced, hapart⟩

/-- R273, for every pair of functions: the range check stands for the lawfulness of those that are not. -/
theorem ps24_roundTrips (f : Ps24Functions) : RoundTrips (ps24Swz f) (ps24Unswz f) := by
  refine roundTrips_of_inverse (ps24RemapChecks f) (ps24RemapChecks f)
    (fun p src => ofNibbles (swizzle 0 (ps24Layout f p) (toNibbles src)))
    (fun p src => ofNibbles (unswizzle 0 (ps24Layout f p) (toNibbles src)))
    (fun _ => rfl) (fun _ => rfl) (fun p src hpass => ?_) fun p src a n b c hpass hsrc _ => ?_
  · obtain ⟨-, -, hfit, -⟩ := ps24RemapChecks_pass hpass
    rwa [length_ofNibbles, length_swizzle]
  · obtain ⟨heven, hlen, -, hplaced, hapart⟩ := ps24RemapChecks_pass hpass
    have hlin : (toNibbles src).length = (ps24Layout f p).linLen := by
      rw [length_toNibbles, hsrc, hlen, Nat.mul_div_cancel' (Nat.dvd_of_mod_eq_zero heven)]
      exact (Nat.mul_one _).symm
    change ofNibbles (unswizzle 0 (ps24Layout f p) (toNibbles (ofNibbles (swizzle 0 (ps24Layout f p) _)))) = src
    rw [toNibbles_ofNibbles _ (by rwa [length_swizzle]), unswizzle_swizzle 0 hplaced hapart hlin, ofNibbles_toNibbles]

/-! ## WIIU -/

/-- R336: the surface check has found the layout placed and apart. -/
theorem wiiuLayout_placed_apart {f : WiiuFormat} {p : Params}
    (h : firstError (wiiuChecks f p ++ [wiiuSurfaceCheck f p]) = none) :
    ((wiiuSurface f p).layout p.surfSize).Placed ∧ ((wiiuSurface f p).layout p.surfSize).Apart := by
  rw [firstError_append, Option.or_eq_none_iff] at h
  obtain ⟨-, hsurface⟩ := h
  simp only [firstError_eq_none, wiiuSurfaceCheck, List.forall_mem_cons, Bool.not_eq_false', Bool.and_eq_true,
    Layout.placedTest_iff, Layout.apartTest_iff] at hsurface
  exact hsurface.1

theorem wiiu_roundTrips (f : WiiuFormat) : RoundTrips (wiiuSwz f) (wiiuUnswz f) :=
  roundTrips_generic (fun p => wiiuChecks f p ++ [wiiuSurfaceCheck f p])
    (fun p => (wiiuSurface f p).layout p.surfSize) wiiuLayout_placed_apart fun _ _ _ _ _ _ => rfl

/-- Settles O54: PS5's layouts are bijections, and the run-time checks of PS2.4 and WIIU let no other layout pass. -/
theorem openFamiliesRoundTripThroughMemory : Obligations.OpenFamiliesRoundTripThroughMemory :=
  ⟨fun _ => ⟨rfl, rfl, rfl, rfl, rfl, rfl⟩, ps5_roundTrips, ps24_roundTrips, wiiu_roundTrips⟩

end Sys2Proof.Machine
end

section
/-! Commands whose checks are all run in one list, and layouts named by linear position (R120, R126). -/

namespace Sys2Proof.Machine

/-! ## Lists of checks -/

variable {s t : State}

/-- Checks run list by list. -/
theorem checksRun_append {rest : Prop} (cs ds : List Check) :
    ChecksRun s t (cs ++ ds) rest ↔ ChecksRun s t cs (ChecksRun s t ds rest) := by
  induction cs with
  | nil => rfl
  | cons c cs ih => rw [List.cons_append, ChecksRun, ChecksRun, ih]

/-- Stage 4 of R126. -/
theorem bufferChecks_run {rest : Prop} (srcLen outLen : Nat) :
    ChecksRun s t (bufferChecks s.regs.params srcLen outLen) rest ↔ BufferChecked s t srcLen outLen rest := by
  simp only [ChecksRun, bufferChecks, BufferChecked, ShareByte, rangesShare_eq_true, bne_iff_ne, Bool.or_eq_true,
    decide_eq_true_eq]

/-- Stage 3 of R126 for an `.ADDR` (R125). -/
theorem addrChecks_run {rest inDomain : Prop} {d : Bool} {a : Nat} (hd : d = true ↔ inDomain) :
    ChecksRun s t (addrChecks d a) rest ↔
      (Checked s t (¬ inDomain) (.ig 0x0A) <| Checked s t (2 ^ 64 ≤ a) (.ig 0x0B) rest) := by
  rw [← hd, addrChecks, ChecksRun, ChecksRun, ChecksRun, Bool.not_eq_true', ← Bool.not_eq_true, decide_eq_true_eq]

/-- A remap runs its checks and then stores its output (R126, R135). -/
theorem remapResult_checked (s : State) {checks : List Check} {out : List Byte} {effect : State → Prop}
    (heffect : firstError checks = none → effect (s.succeedOutput out)) :
    let t := s.complete (remapResult checks out)
    ChecksRun s t checks (effect t) := by
  refine checksRun_complete (fun e he => by rw [remapResult, he]) fun hnone => ?_
  rw [remapResult, hnone]
  exact heffect hnone

/-- A command that answers a value runs its checks first (R125, R126). -/
theorem valueResult_checked (s : State) {checks : List Check} {v : Nat}
    (hfit : firstError checks = none → v < 2 ^ 64) :
    let t := s.complete (valueResult checks v)
    ChecksRun s t checks (ValueEffect s t v) := by
  refine checksRun_complete (fun e he => by rw [valueResult, he]) fun hnone => ?_
  rw [valueResult, hnone]
  exact s.succeedValue_effect (hfit hnone)

/-- An output matters only where every check passes. -/
theorem remapResult_congr {checks : List Check} {out out' : List Byte} (h : firstError checks = none → out = out') :
    remapResult checks out = remapResult checks out' := by
  unfold remapResult
  split
  · rfl
  · next hnone => rw [h hnone]

/-- Checks after those of a family matter only where the family's pass. -/
theorem remapResult_append_congr {family cs ds : List Check} {out : List Byte}
    (h : firstError family = none → cs = ds) : remapResult (family ++ cs) out = remapResult (family ++ ds) out := by
  cases hfirst : firstError family with
  | some e => rw [remapResult_append_of_error hfirst, remapResult_append_of_error hfirst]
  | none => rw [h hfirst]

/-! ## Layouts by linear position -/

/-- The units of a layout, named by their linear positions (R120). -/
def Layout.unitMap (lay : Layout) : UnitMap Nat :=
  ⟨fun i => i < lay.count, fun i => i, fun i k => lay.addr i + k, lay.unit, lay.linLen, lay.swzLen⟩

variable {lay : Layout}

/-- R123 for every placed layout. -/
theorem unswizzle_unitMap_effect (hp : lay.Placed) (hlen : s.regs.params.srcLen = lay.swzLen)
    (hfit : lay.linLen < 2 ^ 64) : UnswzEffect lay.unitMap s (s.succeedOutput (unswizzle 0 lay s.source)) := by
  have hl : (unswizzle 0 lay s.source).length = lay.linLen := length_unswizzle ..
  refine ⟨?_, fun i (hi : i < lay.count) k (hk : k < lay.unit) => ?_⟩
  · have hframe := s.succeedOutput_frame (hl.trans_lt hfit)
    rwa [hl] at hframe
  · have hplace : lay.addr i + k < lay.swzLen := (Nat.add_lt_add_left hk _).trans_le (hp i hi)
    calc (s.succeedOutput _).mem.read (s.regs.params.dstBase + (i * lay.unit + k))
        = (unswizzle 0 lay s.source).getD (i * lay.unit + k) 0 := s.succeedOutput_read (hl.symm ▸ digits_lt hi hk)
      _ = s.source.getD (lay.addr i + k) 0 := getD_unswizzle 0 lay _ hi hk
      _ = s.mem.read (s.regs.params.srcBase + (lay.addr i + k)) := s.getD_source (hlen.symm ▸ hplace)

/-- R124 and R127 for every layout that is placed and apart. -/
theorem swizzle_unitMap_effect (hp : lay.Placed) (ha : lay.Apart) (hlen : s.regs.params.srcLen = lay.linLen)
    (hfit : lay.swzLen < 2 ^ 64) : SwzEffect lay.unitMap s (s.succeedOutput (swizzle 0 lay s.source)) := by
  have hl : (swizzle 0 lay s.source).length = lay.swzLen := length_swizzle ..
  refine ⟨?_, fun i (hi : i < lay.count) k (hk : k < lay.unit) => ?_, fun j (hj : j < lay.swzLen) hfree => ?_⟩
  · have hframe := s.succeedOutput_frame (hl.trans_lt hfit)
    rwa [hl] at hframe
  · have hplace : lay.addr i + k < lay.swzLen := (Nat.add_lt_add_left hk _).trans_le (hp i hi)
    calc (s.succeedOutput _).mem.read (s.regs.params.dstBase + (lay.addr i + k))
        = (swizzle 0 lay s.source).getD (lay.addr i + k) 0 := s.succeedOutput_read (hl.symm ▸ hplace)
      _ = s.source.getD (i * lay.unit + k) 0 := getD_swizzle 0 lay _ hp ha hi hk
      _ = s.mem.read (s.regs.params.srcBase + (i * lay.unit + k)) := s.getD_source (hlen.symm ▸ digits_lt hi hk)
  · rw [s.succeedOutput_read (hl.symm ▸ hj)]
    refine getD_swizzle_of_uncovered 0 lay _ ?_
    rintro ⟨i, hi, hlo, hhi⟩
    obtain ⟨k, rfl⟩ := Nat.exists_eq_add_of_le hlo
    exact hfree i hi k (Nat.lt_of_add_lt_add_left hhi) rfl

end Sys2Proof.Machine
end

section
/-! The statements about PS2.8. -/

namespace Sys2Proof.Machine

/-- Settles O48: R262. -/
theorem ps28OffsetIsABijection : Obligations.Ps28OffsetIsABijection := fun _ _ hW hH =>
  ⟨(numbers_ps28Offset hW hH).lt, (numbers_ps28Offset hW hH).inj⟩

/-- R261 with division and remainder in place of shifts and masks. -/
theorem ps28Offset_eq_formula (W x y : Nat) :
    ps28Offset W x y = y / 16 * 16 * W + x / 16 * 32 + (2 * (y / 4 % 4) + y % 2) * (2 * W) +
      (x + 4 * ((y + 2) / 4 % 2)) % 8 * 4 + y / 2 % 2 + 2 * (x / 8 % 2) := by
  have hrow : ps28Row y = y / 16 * 8 + (2 * (y / 4 % 4) + y % 2) := by
    unfold ps28Row
    omega
  rw [ps28Offset_eq_digits, hrow, ps28Column, Nat.mul_comm ((y + 2) / 4 % 2) 4]
  ring

/-- The checks of R261. -/
theorem ps28Checks_run {s t : State} {rest : Prop} : ChecksRun s t (ps28Checks s.regs.params) rest ↔
    (Checked s t (s.regs.params.ps2SwizzleType ≠ 1) (.up 0x10) <| SizeChecked s t <|
      Checked s t (s.regs.params.width.toNat % 16 ≠ 0 ∨ s.regs.params.height.toNat % 4 ≠ 0) (.ig 0x05) rest) := by
  simp [ChecksRun, ps28Checks, SizeChecked, BitVec.toNat_eq]

/-- Settles O36: the checks of R261 leave an image on which the address function is a bijection, byte by byte. -/
theorem ps28RemapsFollowTheGsFormula : Obligations.Ps28RemapsFollowTheGsFormula := by
  simp only [Obligations.Ps28RemapsFollowTheGsFormula, ← ps28Offset_eq_formula]
  refine ⟨decode_encode .ps28Unswz, decode_encode .ps28Swz, fun s => ⟨⟨_, rfl, ?_⟩, ⟨_, rfl, ?_⟩⟩⟩
  · have hrun := genericUnswz_checked s fun h => (ps28Layout_placed_apart (p := s.regs.params) h).1
    rw [Nat.mul_one] at hrun
    exact ps28Checks_run.1 hrun
  · have hrun := genericSwz_checked s (ps28Layout_placed_apart (p := s.regs.params))
    rw [Nat.mul_one] at hrun
    exact ps28Checks_run.1 hrun

/-- Settles O37: the generic `.ADDR` after the checks of R261. -/
theorem ps28AddrOfATexel : Obligations.Ps28AddrOfATexel := by
  simp only [Obligations.Ps28AddrOfATexel, ← ps28Offset_eq_formula]
  exact ⟨decode_encode .ps28Addr, fun s => ⟨_, rfl, ps28Checks_run.1 (genericAddr_checked s _ _ _ (ps28Offset _))⟩⟩

end Sys2Proof.Machine
end

section
/-! Texels of four bits in memory, and the OPEN functions of PS2.4 (R134, R270, R271, R272). -/

namespace Sys2Proof.Machine

/-! ## Texels (R270) -/

theorem getD_toNibbles (bs : List Byte) (k : Nat) :
    ((toNibbles bs).getD k 0).toNat = (bs.getD (k / 2) 0).toNat / 16 ^ (k % 2) % 16 := by
  induction bs generalizing k with
  | nil => simp [toNibbles]
  | cons b bs ih =>
    match k with
    | 0 => simp [toNibbles, lowNibble]
    | 1 => simp [toNibbles, highNibble]
    | k + 2 =>
      have hhalf : (k + 2) / 2 = k / 2 + 1 := by omega
      have hparity : (k + 2) % 2 = k % 2 := by omega
      rw [toNibbles, List.getD_cons_succ, List.getD_cons_succ, ih, hhalf, hparity, List.getD_cons_succ]

/-- The texels of the source buffer are those of the source bytes. -/
theorem State.nibbleAt_source (s : State) {k : Nat} (hk : k < 2 * s.regs.params.srcLen) :
    nibbleAt s.mem s.regs.params.srcBase k = ((toNibbles s.source).getD k 0).toNat := by
  rw [nibbleAt, getD_toNibbles, s.getD_source (by omega)]

/-- A command that stores texels leaves them in the output range. -/
theorem State.nibbleAt_succeedOutput (s : State) {texels : List Nibble} (heven : texels.length % 2 = 0) {k : Nat}
    (hk : k < texels.length) :
    nibbleAt (s.succeedOutput (ofNibbles texels)).mem s.regs.params.dstBase k = (texels.getD k 0).toNat := by
  have hbyte : k / 2 < (ofNibbles texels).length := by
    rw [length_ofNibbles]
    omega
  rw [nibbleAt, s.succeedOutput_read hbyte, ← getD_toNibbles, toNibbles_ofNibbles texels heven]

/-! ## The range check (R134) -/

/-- A layout of units of one element is placed and apart exactly where its address function numbers the image. -/
theorem byteLayout_placed_apart_iff {I : Nat → Nat → Nat} {w h n : Nat} :
    ((gridLayout w h 1 n I).Placed ∧ (gridLayout w h 1 n I).Apart) ↔ Numbers I w h n := by
  refine ⟨fun ⟨hp, ha⟩ => ⟨fun x y hx hy => ?_, fun x y x' y' hx hy hx' hy' he => ?_⟩, Numbers.byteLayout⟩
  · have hend := hp _ (grid_index_lt hx hy)
    rwa [gridLayout_addr hx] at hend
  · by_contra hne
    have hdiffer : y * w + x ≠ y' * w + x' := fun hindex =>
      hne ((numbers_rowMajor w h).inj x y x' y' hx hy hx' hy' hindex)
    have hapart := ha _ _ (grid_index_lt hx hy) (grid_index_lt hx' hy') hdiffer
    rw [gridLayout_addr hx, gridLayout_addr hx', gridLayout_unit] at hapart
    omega

theorem ps24Bijective_iff {addr : Nat → Nat → Nat → Nat → Nat} {W H : Nat} :
    Config.Ps24Bijective addr W H ↔ Numbers (fun x y => addr x y W H) W H (W * H) :=
  ⟨numbers_of_ps24Bijective, fun h => ⟨h.lt, h.inj⟩⟩

/-- The run-time test finds exactly the functions that break R272 at this geometry. -/
theorem ps24RangeCheck_fails (f : Ps24Functions) (p : Params) :
    (ps24RangeCheck f p).fails = true ↔ ¬ Config.Ps24Bijective f.addr p.width.toNat p.height.toNat := by
  have htest : ((ps24Layout f p).placedTest && (ps24Layout f p).apartTest) = true ↔
      Config.Ps24Bijective f.addr p.width.toNat p.height.toNat := by
    rw [Bool.and_eq_true, Layout.placedTest_iff, Layout.apartTest_iff, ps24Bijective_iff]
    exact byteLayout_placed_apart_iff
  rw [← htest, ps24RangeCheck, Bool.not_eq_true', Bool.not_eq_true]

/-! ## The selected functions (R271) -/

/-- The variant of a legal selector. -/
def ps24Choice (selector : Nat) : Ps24Variant :=
  if selector = 1 then .standard else if selector = 2 then .type3 else .suba

theorem ps24Variant_eq (selector : Nat) :
    ps24Variant selector =
      if selector ≠ 1 ∧ selector ≠ 2 ∧ selector ≠ 3 then none else some (ps24Choice selector) := by
  unfold ps24Variant ps24Choice
  split <;> simp_all

/-- The functions of the variant a legal selector names (R271). -/
def ps24Chosen (selector : Nat) : Ps24Functions :=
  ⟨Config.ps24Ok (ps24Choice selector), Config.ps24Addr (ps24Choice selector)⟩

variable {p : Params}

/-- An illegal selector is refused whatever the functions are, so a command that ends in the family's first error may as
well be run with the functions of `ps24Chosen`. -/
theorem ps24Open_eq_chosen (r : Ps24Functions → CmdResult)
    (herror : ∀ f e, firstError (ps24Checks f p) = some e → r f = .error e) :
    r (ps24Open p.ps2SwizzleType.toNat) = r (ps24Chosen p.ps2SwizzleType.toNat) := by
  have hvariant := ps24Variant_eq p.ps2SwizzleType.toNat
  by_cases hsel : p.ps2SwizzleType.toNat ≠ 1 ∧ p.ps2SwizzleType.toNat ≠ 2 ∧ p.ps2SwizzleType.toNat ≠ 3
  · rw [if_pos hsel] at hvariant
    have hrefused : ∀ f, firstError (ps24Checks f p) = some (.up 0x10) := fun f => by
      rw [ps24Checks, firstError_cons, hvariant]
      rfl
    rw [herror _ _ (hrefused _), herror _ _ (hrefused _)]
  · rw [if_neg hsel] at hvariant
    rw [ps24Open, hvariant]
    rfl

/-- The checks of R271. -/
theorem ps24Checks_run {s t : State} {f : Ps24Functions} {rest : Prop} :
    ChecksRun s t (ps24Checks f s.regs.params) rest ↔
      let p := s.regs.params
      let sel := p.ps2SwizzleType.toNat
      (Checked s t (sel ≠ 1 ∧ sel ≠ 2 ∧ sel ≠ 3) (.up 0x10) <| SizeChecked s t <|
        Checked s t (p.width.toNat * p.height.toNat % 2 = 1 ∨ f.ok p.width.toNat p.height.toNat = false) (.ig 0x06)
          rest) := by
  simp [ChecksRun, ps24Checks, SizeChecked, ps24Texels, ps24Variant_eq]

end Sys2Proof.Machine
end

section
/-! The statements about PS2.4. -/

namespace Sys2Proof.Machine

variable {f : Ps24Functions} {s t : State}

/-- The checks of R271, the buffers, then the range check. -/
theorem ps24RemapChecks_run {rest : Prop} : ChecksRun s t (ps24RemapChecks f s.regs.params) rest ↔
    let p := s.regs.params
    let sel := p.ps2SwizzleType.toNat
    let w := p.width.toNat
    let h := p.height.toNat
    (Checked s t (sel ≠ 1 ∧ sel ≠ 2 ∧ sel ≠ 3) (.up 0x10) <| SizeChecked s t <|
      Checked s t (w * h % 2 = 1 ∨ f.ok w h = false) (.ig 0x06) <| BufferChecked s t (w * h / 2) (w * h / 2) <|
      Checked s t (¬ Config.Ps24Bijective f.addr w h) (.oob 0x01) rest) := by
  rw [ps24RemapChecks, checksRun_append, checksRun_append, ps24Checks_run, bufferChecks_run, ChecksRun, ChecksRun,
    ps24RangeCheck_fails]
  rfl

/-- The effect of R274 and R275: `N / 2` bytes of output, in which texel `dst x y` is texel `src x y` of the source for
every texel of the image. -/
def Ps24Effect (s t : State) (dst src : Nat → Nat → Nat) : Prop :=
  OutputFrame s t (ps24Texels s.regs.params / 2) ∧
    ∀ x y, x < s.regs.params.width.toNat → y < s.regs.params.height.toNat →
      nibbleAt t.mem s.regs.params.dstBase (dst x y) = nibbleAt s.mem s.regs.params.srcBase (src x y)

/-- What a PS2.4 remap that passes its checks stores, from what its loop does to the texels. -/
theorem ps24_output_effect {texels : List Nibble} {dst src : Nat → Nat → Nat}
    (hpass : firstError (ps24RemapChecks f s.regs.params) = none) (hN : texels.length = ps24Texels s.regs.params)
    (hdst : Numbers dst s.regs.params.width.toNat s.regs.params.height.toNat (ps24Texels s.regs.params))
    (hsrc : Numbers src s.regs.params.width.toNat s.regs.params.height.toNat (ps24Texels s.regs.params))
    (hmoved : ∀ x y, x < s.regs.params.width.toNat → y < s.regs.params.height.toNat →
      texels.getD (dst x y) 0 = (toNibbles s.source).getD (src x y) 0) :
    Ps24Effect s (s.succeedOutput (ofNibbles texels)) dst src := by
  obtain ⟨heven, hlen, hfit, -⟩ := ps24RemapChecks_pass hpass
  refine ⟨?_, fun x y hx hy => ?_⟩
  · have hbytes : (ofNibbles texels).length = ps24Texels s.regs.params / 2 := by rw [length_ofNibbles, hN]
    have hframe := s.succeedOutput_frame (hbytes.trans_lt hfit)
    rwa [hbytes] at hframe
  · have hread := hsrc.lt x y hx hy
    rw [s.nibbleAt_succeedOutput (hN ▸ heven) (hN.symm ▸ hdst.lt x y hx hy), s.nibbleAt_source (by omega),
      hmoved x y hx hy]

variable (f s)

/-- `PS2.4.UNSWZ` for every pair of functions (R271, R274). -/
theorem ps24Unswz_checked :
    let p := s.regs.params
    let t := s.complete (ps24Unswz f s)
    ChecksRun s t (ps24RemapChecks f p)
      (Ps24Effect s t (fun x y => y * p.width.toNat + x) fun x y => f.addr x y p.width.toNat p.height.toNat) := by
  refine remapResult_checked s (effect := fun t => Ps24Effect s t _ _) fun hpass => ?_
  obtain ⟨-, -, -, hlayout⟩ := ps24RemapChecks_pass hpass
  refine ps24_output_effect hpass ((length_unswizzle ..).trans (Nat.mul_one _)) (numbers_rowMajor _ _)
    (byteLayout_placed_apart_iff.1 hlayout) fun x y hx hy => ?_
  have hmoved := getD_unswizzle 0 (ps24Layout f s.regs.params) (toNibbles s.source) (k := 0) (grid_index_lt hx hy)
    Nat.one_pos
  rwa [ps24Layout, gridLayout_addr hx, gridLayout_unit, Nat.mul_one] at hmoved

/-- `PS2.4.SWZ` for every pair of functions (R271, R275). -/
theorem ps24Swz_checked :
    let p := s.regs.params
    let t := s.complete (ps24Swz f s)
    ChecksRun s t (ps24RemapChecks f p)
      (Ps24Effect s t (fun x y => f.addr x y p.width.toNat p.height.toNat) fun x y => y * p.width.toNat + x) := by
  refine remapResult_checked s (effect := fun t => Ps24Effect s t _ _) fun hpass => ?_
  obtain ⟨-, -, -, hplaced, hapart⟩ := ps24RemapChecks_pass hpass
  refine ps24_output_effect hpass (length_swizzle ..) (byteLayout_placed_apart_iff.1 ⟨hplaced, hapart⟩)
    (numbers_rowMajor _ _) fun x y hx hy => ?_
  have hmoved := getD_swizzle 0 (ps24Layout f s.regs.params) (toNibbles s.source) hplaced hapart (k := 0)
    (grid_index_lt hx hy) Nat.one_pos
  rwa [ps24Layout, gridLayout_addr hx, gridLayout_unit, Nat.mul_one] at hmoved

/-- `PS2.4.ADDR` for every pair of functions (R276, with IG 0x0B by R125 and R372). -/
theorem ps24Addr_checked :
    let p := s.regs.params
    let w := p.width.toNat
    let h := p.height.toNat
    let a := f.addr p.coordX.toNat p.coordY.toNat w h
    let t := s.complete (ps24Addr f p)
    ChecksRun s t (ps24Checks f p) <| Checked s t (¬ (p.coordX.toNat < w ∧ p.coordY.toNat < h)) (.ig 0x0A) <|
      Checked s t (2 ^ 64 ≤ a) (.ig 0x0B) <| Checked s t (w * h ≤ a) (.oob 0x01) <| ValueEffect s t a := by
  intro p w h a t
  have hrun : ChecksRun s t (ps24Checks f p ++
      addrChecks (decide (p.coordX.toNat < w) && decide (p.coordY.toNat < h)) a ++
      [⟨decide (ps24Texels p ≤ a), .oob 0x01⟩]) (ValueEffect s t a) := valueResult_checked s fun hnone => by
    have hfits := firstError_eq_none.1 hnone ⟨decide (2 ^ 64 ≤ a), .ig 0x0B⟩
      (List.mem_append_left _ (List.mem_append_right _ (List.mem_cons_of_mem _ List.mem_cons_self)))
    exact Nat.not_le.1 (of_decide_eq_false hfits)
  rwa [checksRun_append, checksRun_append, addrChecks_run (by rw [Bool.and_eq_true, decide_eq_true_eq,
    decide_eq_true_eq]), ChecksRun, ChecksRun, decide_eq_true_eq] at hrun

/-! ## The selected functions -/

/-- A PS2.4 remap ends in the first error of its family's checks, if there is one. -/
theorem ps24_remapResult_of_error {p : Params} {e : CmdError} (h : firstError (ps24Checks f p) = some e)
    (out : List Byte) : remapResult (ps24RemapChecks f p) out = .error e := by
  rw [ps24RemapChecks, List.append_assoc, remapResult_append_of_error h]

theorem ps24Addr_of_error {p : Params} {e : CmdError} (h : firstError (ps24Checks f p) = some e) :
    ps24Addr f p = .error e := by
  simp [ps24Addr, valueResult, firstError_append, h]

theorem exec_ps24Unswz :
    exec .ps24Unswz s = .next (s.complete (ps24Unswz (ps24Chosen s.regs.params.ps2SwizzleType.toNat) s)) :=
  congrArg (fun r => Host.Outcome.next (s.complete r))
    (ps24Open_eq_chosen (ps24Unswz · s) fun f _ he => ps24_remapResult_of_error f he _)

theorem exec_ps24Swz :
    exec .ps24Swz s = .next (s.complete (ps24Swz (ps24Chosen s.regs.params.ps2SwizzleType.toNat) s)) :=
  congrArg (fun r => Host.Outcome.next (s.complete r))
    (ps24Open_eq_chosen (ps24Swz · s) fun f _ he => ps24_remapResult_of_error f he _)

theorem exec_ps24Addr :
    exec .ps24Addr s =
      .next (s.complete (ps24Addr (ps24Chosen s.regs.params.ps2SwizzleType.toNat) s.regs.params)) :=
  congrArg (fun r => Host.Outcome.next (s.complete r))
    (ps24Open_eq_chosen (ps24Addr · s.regs.params) fun f _ he => ps24Addr_of_error f he)

/-- Settles O38: the run-time check lets exactly the bijections pass, and along a bijection every texel comes to its
place. -/
theorem ps24RemapsMoveTexels : Obligations.Ps24RemapsMoveTexels :=
  ⟨decode_encode .ps24Unswz, decode_encode .ps24Swz, fun s =>
    ⟨⟨_, exec_ps24Unswz s, ps24RemapChecks_run.1 (ps24Unswz_checked (ps24Chosen _) s)⟩,
      ⟨_, exec_ps24Swz s, ps24RemapChecks_run.1 (ps24Swz_checked (ps24Chosen _) s)⟩⟩⟩

/-- Settles O39: the checks of R271, then those of stage 3 of R126, then the range of the index. -/
theorem ps24AddrIsANibbleIndex : Obligations.Ps24AddrIsANibbleIndex :=
  ⟨decode_encode .ps24Addr, fun s =>
    ⟨_, exec_ps24Addr s, ps24Checks_run.1 (ps24Addr_checked (ps24Chosen _) s)⟩⟩

end Sys2Proof.Machine
end

section
/-! The statements about PS2.PAL. -/

namespace Sys2Proof.Machine

variable {p : Params}

/-- R280: the palette is whole entries. -/
theorem palLayout_linLen (h : firstError (palChecks p) = none) : (palLayout p).linLen = p.srcLen := by
  simp only [firstError_eq_none, palChecks, List.forall_mem_cons, Bool.or_eq_false_iff, bne_eq_false_iff_eq] at h
  obtain ⟨-, ⟨⟨hwhole, -⟩, -⟩, -⟩ := h
  exact Nat.div_mul_cancel (Nat.dvd_of_mod_eq_zero hwhole)

/-- The checks of R280. -/
theorem palChecks_run {s t : State} {rest : Prop} : ChecksRun s t (palChecks s.regs.params) rest ↔
    (Checked s t (s.regs.params.palEntryBytes.toNat ≠ 2 ∧ s.regs.params.palEntryBytes.toNat ≠ 4) (.up 0x11) <|
      Checked s t (s.regs.params.srcLen % s.regs.params.palEntryBytes.toNat ≠ 0 ∨ palEntries s.regs.params = 0 ∨
        palEntries s.regs.params % 32 ≠ 0) (.ig 0x07) rest) := by
  simp [ChecksRun, palChecks, palEntryCheck, or_assoc]

/-! ## Remaps -/

/-- Both buffers of a palette remap have the length of the source (R280). -/
theorem palUnswz_eq (s : State) :
    genericUnswz s (palChecks s.regs.params) (palLayout s.regs.params) =
      remapResult (palChecks s.regs.params ++ bufferChecks s.regs.params s.regs.params.srcLen s.regs.params.srcLen)
        (unswizzle 0 (palLayout s.regs.params) s.source) :=
  remapResult_append_congr fun h => by rw [palLayout_linLen h]; rfl

theorem palSwz_eq (s : State) :
    genericSwz s (palChecks s.regs.params) (palLayout s.regs.params) =
      remapResult (palChecks s.regs.params ++ bufferChecks s.regs.params s.regs.params.srcLen s.regs.params.srcLen)
        (swizzle 0 (palLayout s.regs.params) s.source) :=
  remapResult_append_congr fun h => by rw [palLayout_linLen h]; rfl

/-- The entries of a palette (R280). -/
def palMap (p : Params) : UnitMap Nat :=
  ⟨fun i => i < palEntries p, fun i => i, fun i k => palPerm i * p.palEntryBytes.toNat + k, p.palEntryBytes.toNat,
    p.srcLen, p.srcLen⟩

theorem palLayout_unitMap (h : firstError (palChecks p) = none) : (palLayout p).unitMap = palMap p := by
  rw [Layout.unitMap, palLayout_linLen h]
  rfl

/-- Settles O40: where the checks of R280 pass, PERM permutes the entries of the buffer. -/
theorem paletteRemapsExchangeBits3And4 : Obligations.PaletteRemapsExchangeBits3And4 := by
  simp only [Obligations.PaletteRemapsExchangeBits3And4, ← palPerm_eq_digits]
  refine ⟨decode_encode .ps2PalUnswz, decode_encode .ps2PalSwz, fun s => ⟨⟨_, rfl, ?_⟩, ⟨_, rfl, ?_⟩⟩⟩
  · rw [palUnswz_eq]
    refine palChecks_run.1 (remap_checked s (effect := UnswzEffect (palMap s.regs.params) s) fun h hlen hfit => ?_)
    rw [← palLayout_unitMap h]
    exact unswizzle_unitMap_effect (palLayout_placed_apart h).1 rfl ((palLayout_linLen h).trans_lt hfit)
  · rw [palSwz_eq]
    refine palChecks_run.1 (remap_checked s (effect := SwzEffect (palMap s.regs.params) s) fun h hlen hfit => ?_)
    obtain ⟨hplaced, hapart⟩ := palLayout_placed_apart h
    rw [← palLayout_unitMap h]
    exact swizzle_unitMap_effect hplaced hapart (palLayout_linLen h).symm hfit

/-! ## One function (R281) -/

/-- Entry `i` of either output is entry `PERM(i)` of the source. -/
theorem swizzle_palLayout_eq_unswizzle (h : firstError (palChecks p) = none) (src : List Byte) :
    swizzle 0 (palLayout p) src = unswizzle 0 (palLayout p) src := by
  obtain ⟨hplaced, hapart⟩ := palLayout_placed_apart h
  have hgroups : palEntries p % 32 = 0 := by
    simp only [firstError_eq_none, palChecks, List.forall_mem_cons, Bool.or_eq_false_iff, bne_eq_false_iff_eq] at h
    obtain ⟨-, ⟨-, hgroups⟩, -⟩ := h
    exact hgroups
  refine buffer_ext 0 ?_ fun j hj => ?_
  · rw [length_swizzle, length_unswizzle, palLayout_linLen h]
    rfl
  · rw [length_unswizzle] at hj
    obtain ⟨i, k, hi, hk, rfl⟩ := Layout.exists_unit_of_lt_linLen hj
    have hpartner : palPerm i < (palLayout p).count := palPerm_lt hgroups hi
    have hplace : (palLayout p).addr (palPerm i) = i * (palLayout p).unit :=
      congrArg (· * p.palEntryBytes.toNat) (palPerm_palPerm i)
    rw [getD_unswizzle 0 _ _ hi hk, ← hplace, getD_swizzle 0 _ _ hplaced hapart hpartner hk]
    rfl

/-- Settles O49: PERM is its own inverse, so that moving entry `PERM(i)` to `i` and entry `i` to `PERM(i)` is one
function. -/
theorem paletteSwzAndUnswzAgree : Obligations.PaletteSwzAndUnswzAgree := by
  refine ⟨fun i => ⟨palPerm_palPerm i, (palPerm_bits i).1⟩, fun s => ?_⟩
  have hresult : genericSwz s (palChecks s.regs.params) (palLayout s.regs.params) =
      genericUnswz s (palChecks s.regs.params) (palLayout s.regs.params) := by
    rw [palSwz_eq, palUnswz_eq]
    exact remapResult_congr fun hpass =>
      swizzle_palLayout_eq_unswizzle (firstError_family_and_buffers hpass).1 _
  exact congrArg (fun r => Host.Outcome.next (s.complete r)) hresult

/-! ## `.ADDR` (R284) -/

/-- Every entry's address fits 64 bits: an index of 32 bits keeps its size under PERM. -/
theorem palPerm_mul_lt (i E : Word) : palPerm i.toNat * E.toNat < 2 ^ 64 :=
  calc palPerm i.toNat * E.toNat < 2 ^ 32 * 2 ^ 32 :=
        Nat.mul_lt_mul'' (palPerm_lt (by norm_num) i.isLt) E.isLt
    _ = 2 ^ 64 := by norm_num

/-- The checks of R284. -/
theorem palAddrChecks_run {s t : State} {rest : Prop} :
    ChecksRun s t [palEntryCheck s.regs.params, ⟨s.regs.params.coordY.toNat != 0, .ig 0x0A⟩] rest ↔
      (Checked s t (s.regs.params.palEntryBytes.toNat ≠ 2 ∧ s.regs.params.palEntryBytes.toNat ≠ 4) (.up 0x11) <|
        Checked s t (s.regs.params.coordY ≠ 0) (.ig 0x0A) rest) := by
  simp [ChecksRun, palEntryCheck, BitVec.toNat_eq]

/-- Settles O41: the two checks of R284, then a value that always fits. -/
theorem paletteAddrOfAnEntry : Obligations.PaletteAddrOfAnEntry := by
  simp only [Obligations.PaletteAddrOfAnEntry, ← palPerm_eq_digits]
  exact ⟨decode_encode .ps2PalAddr, fun s =>
    ⟨_, rfl, palAddrChecks_run.1 (valueResult_checked s fun _ => palPerm_mul_lt _ _)⟩⟩

end Sys2Proof.Machine
end

section
/-! The statements about NSW. -/

namespace Sys2Proof.Machine

/-- R301 with single bits of the byte column and the row in place of the digits inside a GOB. -/
theorem nswOffset_eq_formula (bh G xb y : Nat) :
    nswOffset bh G xb y = y / (8 * bh) * (512 * bh * G) + xb / 64 * (512 * bh) + y % (8 * bh) / 8 * 512 +
      xb / 32 % 2 * 256 + y / 2 % 4 * 64 + xb / 16 % 2 * 32 + y % 2 * 16 + xb % 16 := by
  have hsub : nswSub xb y = xb / 32 % 2 * 256 + y / 2 % 4 * 64 + xb / 16 % 2 * 32 + y % 2 * 16 + xb % 16 := by
    unfold nswSub
    omega
  rw [nswOffset, nswGob, hsub]
  simp only [Nat.add_assoc]

/-- The checks of R301. -/
theorem nswChecks_run {s t : State} {rest : Prop} : ChecksRun s t (nswChecks s.regs.params) rest ↔
    (Checked s t (s.regs.params.unitBytes ∉ [1, 2, 4, 8, 16]) (.up 0x14) <|
      Checked s t (s.regs.params.gobBlockH.toNat ∉ [1, 2, 4, 8, 16, 32]) (.up 0x15) <|
      SizeChecked s t <| BlockChecked s t <|
      Checked s t (s.regs.params.widthPad = 0 ∨ s.regs.params.heightPad = 0) (.ig 0x03) rest) := by
  simp [ChecksRun, nswChecks, SizeChecked, BlockChecked, BitVec.toNat_eq]

/-- UP 0x14: a unit size the Switch allows divides the 16 bytes that a GOB keeps together (R302). -/
theorem unitBytes_dvd_sixteen {p : Params} (h : firstError (nswChecks p) = none) : p.unitBytes ∣ 16 := by
  simp only [firstError_eq_none, nswChecks, List.forall_mem_cons, Bool.not_eq_false', List.contains_eq_mem,
    decide_eq_true_eq] at h
  obtain ⟨hunit, -⟩ := h
  exact (by decide : ∀ n ∈ [1, 2, 4, 8, 16], n ∣ 16) _ hunit

/-- Settles O50: the units of a layout that is placed and apart are aligned, since the low four bits of an offset are
those of the byte column. -/
theorem nswUnitsArePlacedApart : Obligations.NswUnitsArePlacedApart := by
  intro p h
  obtain ⟨hplaced, hapart⟩ := nswLayout_placed_apart h
  refine ⟨hplaced, hapart, fun x y => ?_⟩
  rw [nswAddr_eq_offset]
  exact Nat.mod_eq_zero_of_dvd (dvd_nswOffset (unitBytes_dvd_sixteen h) ..)

/-- Settles O42: the checks of R301 leave a layout that is placed and apart, with the address function of R301. -/
theorem nswRemapsBlockLinear : Obligations.NswRemapsBlockLinear := by
  simp only [Obligations.NswRemapsBlockLinear, ← nswOffset_eq_formula]
  exact ⟨decode_encode .nswUnswz, decode_encode .nswSwz, fun s =>
    ⟨⟨_, rfl, nswChecks_run.1 (genericUnswz_checked s fun h => (nswLayout_placed_apart h).1)⟩,
      ⟨_, rfl, nswChecks_run.1 (genericSwz_checked s nswLayout_placed_apart)⟩⟩⟩

/-- Settles O43: the generic `.ADDR` after the checks of R301. -/
theorem nswAddrOfAUnit : Obligations.NswAddrOfAUnit := by
  simp only [Obligations.NswAddrOfAUnit, ← nswOffset_eq_formula]
  exact ⟨decode_encode .nswAddr, fun s => ⟨_, rfl, nswChecks_run.1 (genericAddr_checked s _ _ _ (nswAddr _))⟩⟩

end Sys2Proof.Machine
end

section
/-! Layouts whose units have names of their own, and `.ADDR` commands over any domain (R120, R121, R125). -/

namespace Sys2Proof.Machine

/-! ## `.ADDR` (R125) -/

/-- An `.ADDR` runs its family's checks, then those of stage 3 of R126, and answers the address. -/
theorem addrResult_checked (s : State) (family : List Check) {d : Bool} (a : Nat) {inDomain : Prop}
    (hd : d = true ↔ inDomain) :
    let t := s.complete (addrResult family d a)
    ChecksRun s t family (AddrOutcome s t inDomain a) := by
  refine checksRun_complete (fun e he => addrResult_of_error he _ _) fun hnone => ?_
  rw [addrResult_of_none hnone]
  exact addrOutcome_addrResult hd

/-- An `.ADDR` that ends with a value ends with the address. -/
theorem addrResult_eq_value {family : List Check} {d : Bool} {a v : Nat} (h : addrResult family d a = .value v) :
    v = a := by
  rcases addrResult_cases family d a with ⟨_, -, hr⟩ | ⟨-, -, hr⟩ | ⟨-, -, -, hr⟩ | ⟨-, -, -, hr⟩
  · cases h.symm.trans hr
  · cases h.symm.trans hr
  · cases h.symm.trans hr
  · exact CmdResult.value.inj (h.symm.trans hr)

/-! ## Placement and disjointness under other names (R121) -/

section Fits

variable {ι κ : Type}

/-- R121 for a unit map that keeps the bytes of a unit in order: no unit ends past the swizzled buffer, and no two
overlap. -/
def UnitMap.Fits (m : UnitMap ι) : Prop :=
  (∀ u, m.inDomain u → m.place u 0 + m.unit ≤ m.swzLen) ∧
    ∀ u v, m.inDomain u → m.inDomain v → u ≠ v →
      m.place u 0 + m.unit ≤ m.place v 0 ∨ m.place v 0 + m.unit ≤ m.place u 0

/-- By linear position, it is what the run-time test looks for (R336). -/
theorem Layout.unitMap_fits_iff {lay : Layout} : lay.unitMap.Fits ↔ lay.Placed ∧ lay.Apart := Iff.rfl

/-- Names that differ for different units do not change whether the units fit. -/
theorem UnitMap.Renames.fits_iff {m : UnitMap ι} {m' : UnitMap κ} {f : κ → ι} (hf : m'.Renames m f)
    (hinj : ∀ u v, m'.inDomain u → m'.inDomain v → f u = f v → u = v) : m'.Fits ↔ m.Fits := by
  constructor
  · rintro ⟨hplaced, hapart⟩
    refine ⟨fun i hi => ?_, fun i j hi hj hne => ?_⟩
    · obtain ⟨u, hu, rfl⟩ := hf.onto i hi
      rw [hf.place u 0 hu, ← hf.unit, ← hf.swzLen]
      exact hplaced u hu
    · obtain ⟨u, hu, rfl⟩ := hf.onto i hi
      obtain ⟨v, hv, rfl⟩ := hf.onto j hj
      rw [hf.place u 0 hu, hf.place v 0 hv, ← hf.unit]
      exact hapart u v hu hv fun he => hne (congrArg f he)
  · rintro ⟨hplaced, hapart⟩
    refine ⟨fun u hu => ?_, fun u v hu hv hne => ?_⟩
    · rw [← hf.place u 0 hu, hf.unit, hf.swzLen]
      exact hplaced _ (hf.domain u hu)
    · rw [← hf.place u 0 hu, ← hf.place v 0 hv, hf.unit]
      exact hapart _ _ (hf.domain u hu) (hf.domain v hv) fun he => hne (hinj u v hu hv he)

end Fits

/-! ## Digits -/

/-- A lower digit `b` below the base and the digits `a` above it. -/
theorem digits_read {n b : Nat} (a : Nat) (hb : b < n) : (a * n + b) / n = a ∧ (a * n + b) % n = b :=
  (Nat.div_mod_unique (b.zero_le.trans_lt hb)).2 ⟨by rw [Nat.mul_comm, Nat.add_comm], hb⟩

/-- Every number below `m * n` has an upper digit below `m` and a lower one below `n`. -/
theorem exists_digits {m n i : Nat} (hi : i < m * n) : ∃ a b, a < m ∧ b < n ∧ a * n + b = i := by
  obtain ⟨hlow, hhigh⟩ := grid_column_lt (Nat.mul_comm m n ▸ hi)
  exact ⟨i / n, i % n, hhigh, hlow, Nat.div_add_mod' i n⟩

end Sys2Proof.Machine
end

section
/-! The statements about the Wii U tiler. -/

namespace Sys2Proof.Machine

/-! ## The domain (R334) -/

/-- The units of a surface by column, row, slice and sample (R334). -/
def Surface.unitMap (g : Surface) (surfSize : Nat) : UnitMap (Nat × Nat × Nat × Nat) :=
  { inDomain := fun u => u.1 < g.w ∧ u.2.1 < g.h ∧ u.2.2.1 < g.slices ∧ u.2.2.2 < g.samples
    lin := fun u => ((u.2.2.2 * g.slices + u.2.2.1) * g.h + u.2.1) * g.w + u.1
    place := fun u k => g.addr u.1 u.2.1 u.2.2.1 u.2.2.2 + k
    unit := g.bytes
    linLen := g.samples * g.slices * g.h * g.w * g.bytes
    swzLen := surfSize }

/-- The linear position of a unit has four digits: sample, slice, row and column. -/
theorem Surface.layout_addr {g : Surface} {x y z : Nat} (hx : x < g.w) (hy : y < g.h) (hz : z < g.slices)
    (n surfSize : Nat) :
    (g.layout surfSize).addr (((n * g.slices + z) * g.h + y) * g.w + x) = g.addr x y z n := by
  simp only [Surface.layout, ← Nat.div_div_eq_div_mul, digits_read _ hx, digits_read _ hy, digits_read _ hz]

/-- Different units of a surface have different linear positions. -/
theorem Surface.unitMap_lin_inj (g : Surface) (surfSize : Nat) (u v : Nat × Nat × Nat × Nat)
    (hu : (g.unitMap surfSize).inDomain u) (hv : (g.unitMap surfSize).inDomain v)
    (h : (g.unitMap surfSize).lin u = (g.unitMap surfSize).lin v) : u = v := by
  obtain ⟨hx, hy, hz, -⟩ := hu
  obtain ⟨hx', hy', hz', -⟩ := hv
  obtain ⟨hrows, hxx⟩ := digits_unique hx hx' h
  obtain ⟨hslices, hyy⟩ := digits_unique hy hy' hrows
  obtain ⟨hnn, hzz⟩ := digits_unique hz hz' hslices
  exact Prod.ext hxx (Prod.ext hyy (Prod.ext hzz hnn))

/-- The layout of R334 holds the units of the surface at their linear positions. -/
theorem Surface.unitMap_renames (g : Surface) (surfSize : Nat) :
    (g.unitMap surfSize).Renames (g.layout surfSize).unitMap (g.unitMap surfSize).lin where
  domain := fun _ ⟨hx, hy, hz, hn⟩ => digits_lt (digits_lt (digits_lt hn hz) hy) hx
  onto i hi := by
    obtain ⟨rows, x, hrows, hx, rfl⟩ := exists_digits hi
    obtain ⟨slices, y, hslices, hy, rfl⟩ := exists_digits hrows
    obtain ⟨n, z, hn, hz, rfl⟩ := exists_digits hslices
    exact ⟨(x, y, z, n), ⟨hx, hy, hz, hn⟩, rfl⟩
  lin _ _ := rfl
  place := fun u k ⟨hx, hy, hz, _⟩ => congrArg (· + k) (Surface.layout_addr hx hy hz u.2.2.2 surfSize)
  unit := rfl
  linLen := rfl
  swzLen := rfl

/-! ## The checks (R338) -/

/-- R336: the surface check fails exactly where a unit ends outside the surface or two overlap. -/
theorem wiiuSurfaceCheck_fails (f : WiiuFormat) (p : Params) :
    (wiiuSurfaceCheck f p).fails = true ↔ ¬ ((wiiuSurface f p).unitMap p.surfSize).Fits := by
  rw [(Surface.unitMap_renames ..).fits_iff (Surface.unitMap_lin_inj _ _), Layout.unitMap_fits_iff,
    ← Layout.placedTest_iff, ← Layout.apartTest_iff, ← Bool.and_eq_true, wiiuSurfaceCheck, Bool.not_eq_true',
    Bool.not_eq_true]

variable {s t : State} {f : WiiuFormat} {rest : Prop}

/-- The checks of R322 to R325. -/
theorem wiiuChecks_run : ChecksRun s t (wiiuChecks f s.regs.params) rest ↔
    let p := s.regs.params
    let g := wiiuSurface f p
    let tm := p.wiiuTileMode.toNat
    (Checked s t (16 < tm) (.up 0x20) <|
      Checked s t (f.bpp ∉ [8, 16, 32, 64, 128]) (.up 0x21) <| Checked s t (3 < p.wiiuAa.toNat) (.up 0x22) <|
      Checked s t (p.wiiuAa ≠ 0 ∧ tm ∉ [0, 1, 4, 5, 6, 8, 9, 10, 12, 14]) (.up 0x24) <| SizeChecked s t <|
      Checked s t (g.pitch % g.mode.pitchAlign ≠ 0 ∨ g.surfH % g.mode.heightAlign ≠ 0) (.ig 0x05) <|
      Checked s t (g.pitch < g.w ∨ g.surfH < g.h ∨ g.slices = 0) (.ig 0x08) rest) := by
  simp [ChecksRun, wiiuChecks, SizeChecked, BitVec.toNat_eq, multisampleModes, or_assoc]

/-- The checks of a remap: those of R322 to R325, then that of R336. -/
theorem wiiuRemapChecks_run :
    ChecksRun s t (wiiuChecks f s.regs.params ++ [wiiuSurfaceCheck f s.regs.params]) rest ↔
      ChecksRun s t (wiiuChecks f s.regs.params) (Checked s t
        (¬ ((wiiuSurface f s.regs.params).unitMap s.regs.params.surfSize).Fits) (.ig 0x09) rest) := by
  rw [checksRun_append, ChecksRun, ChecksRun, wiiuSurfaceCheck_fails]
  rfl

/-! ## The remaps (R338, R339) -/

section Remaps

variable (f : WiiuFormat) (s : State)

/-- `WIIU.UNSWZ` for every row of the format table (R338). -/
theorem wiiuUnswz_checked :
    let p := s.regs.params
    let m := (wiiuSurface f p).unitMap p.surfSize
    let t := s.complete (wiiuUnswz f s)
    ChecksRun s t (wiiuChecks f p ++ [wiiuSurfaceCheck f p])
      (BufferChecked s t m.swzLen m.linLen (UnswzEffect m s t)) :=
  remap_checked s (effect := UnswzEffect _ s) fun h hlen hfit =>
    have ⟨hplaced, _⟩ := wiiuLayout_placed_apart h
    (unswizzle_unitMap_effect hplaced hlen hfit).rename (Surface.unitMap_renames ..)

/-- `WIIU.SWZ` for every row of the format table (R339). -/
theorem wiiuSwz_checked :
    let p := s.regs.params
    let m := (wiiuSurface f p).unitMap p.surfSize
    let t := s.complete (wiiuSwz f s)
    ChecksRun s t (wiiuChecks f p ++ [wiiuSurfaceCheck f p])
      (BufferChecked s t m.linLen m.swzLen (SwzEffect m s t)) :=
  remap_checked s (effect := SwzEffect _ s) fun h hlen hfit =>
    have ⟨hplaced, hapart⟩ := wiiuLayout_placed_apart h
    (swizzle_unitMap_effect hplaced hapart hlen hfit).rename (Surface.unitMap_renames ..)

end Remaps

/-- Settles O44: the surface check lets exactly the surfaces pass whose units fit, and the layout of R334 holds those
units at their linear positions. -/
theorem wiiuRemapsWholeSurfaces : Obligations.WiiuRemapsWholeSurfaces :=
  ⟨decode_encode .wiiuUnswz, decode_encode .wiiuSwz, fun s =>
    ⟨⟨_, rfl, wiiuChecks_run.1 (wiiuRemapChecks_run.1 (wiiuUnswz_checked (wiiuSelected s.regs.params) s))⟩,
      ⟨_, rfl, wiiuChecks_run.1 (wiiuRemapChecks_run.1 (wiiuSwz_checked (wiiuSelected s.regs.params) s))⟩⟩⟩

/-! ## `WIIU.ADDR` (R340) -/

/-- `WIIU.ADDR` for every row of the format table. -/
theorem wiiuAddr_checked (f : WiiuFormat) (s : State) :
    let p := s.regs.params
    let g := wiiuSurface f p
    let t := s.complete (wiiuAddr f p)
    ChecksRun s t (wiiuChecks f p) (AddrOutcome s t
      (p.coordX.toNat < g.w ∧ p.coordY.toNat < g.h ∧ p.wiiuSlice.toNat < g.slices ∧ p.wiiuSample.toNat < g.samples)
      (g.addr p.coordX.toNat p.coordY.toNat p.wiiuSlice.toNat p.wiiuSample.toNat)) :=
  addrResult_checked s _ _ (by simp [and_assoc])

/-- Settles O45: the checks of R322 to R325, then the end of an `.ADDR` over elements, slices and samples. -/
theorem wiiuAddrOfAnElement : Obligations.WiiuAddrOfAnElement :=
  ⟨decode_encode .wiiuAddr, fun s =>
    ⟨_, rfl, wiiuChecks_run.1 (wiiuAddr_checked (wiiuSelected s.regs.params) s)⟩⟩

/-! ## The linear modes (R335) -/

/-- R323: tile modes 0 and 1 are the linear ones. -/
theorem tileModeOf_linear {tm : Nat} (h : tm ≤ 1) : (tileModeOf tm).cls = .linear := by
  interval_cases tm <;> rfl

/-- R327 at slice 0 and sample 0: the pitch alone tells where a row begins. -/
theorem Surface.addr_of_linear {g : Surface} (h : g.mode.cls = .linear) (x y : Nat) :
    g.addr x y 0 0 = (y * g.pitch + x) * g.bpp / 8 := by
  rw [Surface.addr, h]
  simp only [Surface.linearAddr, Nat.zero_mul, Nat.add_zero, Nat.mul_zero]

/-- R335: in a linear mode, at slice 0 and sample 0, `WIIU.ADDR` reads no seed. -/
theorem wiiuAddr_of_linear (f : WiiuFormat) {p : Params} (hmode : p.wiiuTileMode.toNat ≤ 1) (hslice : p.wiiuSlice = 0)
    (hsample : p.wiiuSample = 0) :
    wiiuAddr f p = addrResult (wiiuChecks f p)
      (decide (p.coordX.toNat < (wiiuSurface f p).w) && decide (p.coordY.toNat < (wiiuSurface f p).h)
        && decide (0 < (wiiuSurface f p).slices) && decide (0 < (wiiuSurface f p).samples))
      ((p.coordY.toNat * p.wiiuPitch.toNat + p.coordX.toNat) * f.bpp / 8) := by
  rw [wiiuAddr, hslice, hsample]
  exact congrArg _ (Surface.addr_of_linear (tileModeOf_linear hmode) _ _)

/-- Settles O55: both commands are the same `.ADDR` of R335. -/
theorem wiiuLinearModesIgnoreTheSeeds : Obligations.WiiuLinearModesIgnoreTheSeeds := by
  refine ⟨fun s => rfl, fun f p v seeds hmode hslice hsample hvalue => ?_⟩
  have hseeds : wiiuAddr f { p with wiiuSwizzle := seeds } = wiiuAddr f p :=
    (wiiuAddr_of_linear f (p := { p with wiiuSwizzle := seeds }) hmode hslice hsample).trans
      (wiiuAddr_of_linear f hmode hslice hsample).symm
  refine ⟨?_, hseeds.trans hvalue⟩
  rw [wiiuAddr_of_linear f hmode hslice hsample] at hvalue
  exact addrResult_eq_value hvalue

end Sys2Proof.Machine
end

section
/-! The ends a command can come to, by its function: an error of R372, a value of 64 bits, or an output that fits the
destination (R372, R380, R381). -/

namespace Sys2Proof.Machine

/-- The ends R380 and R381 leave to a command with function `fn`, over the parameter registers `p`. -/
def CmdResult.Allowed (fn : Fn) (p : Params) : CmdResult → Prop
  | .error e => e ∈ allErrors
  | .value v => (fn = .addr ∨ fn = .idx) ∧ v < 2 ^ 64
  | .output out => (fn = .unswz ∨ fn = .swz) ∧ FitsDestination p out

/-- Every one of these checks raises an error of R372. -/
def raisesListed (checks : List Check) : Bool := checks.all fun c => allErrors.contains c.err

theorem firstError_mem_allErrors {checks : List Check} {e : CmdError} (h : raisesListed checks = true)
    (he : firstError checks = some e) : e ∈ allErrors := by
  obtain ⟨c, hc, rfl⟩ := List.mem_map.1 (firstError_mem he)
  exact List.contains_iff_mem.1 (List.all_eq_true.1 h c hc)

theorem raisesListed_append {cs ds : List Check} :
    raisesListed (cs ++ ds) = (raisesListed cs && raisesListed ds) := List.all_append

theorem raisesListed_bufferChecks (p : Params) (srcLen outLen : Nat) :
    raisesListed (bufferChecks p srcLen outLen) = true := rfl

theorem raisesListed_addrChecks (inDomain : Bool) (a : Nat) : raisesListed (addrChecks inDomain a) = true := rfl

section Remaps

variable {fn : Fn} {s : State} {p : Params} {checks family : List Check} {srcLen : Nat} {out : List Byte} {lay : Layout}

/-- A remap command's end: its buffer checks, wherever they stand, make the output fit (R126). -/
theorem remapResult_allowed (hfn : fn = .unswz ∨ fn = .swz) (hlisted : raisesListed checks = true)
    (hbuffers : ∀ c ∈ bufferChecks p srcLen out.length, c ∈ checks) : (remapResult checks out).Allowed fn p := by
  have hfits : FitsDestination p (remapResult checks out).bytes := remapResult_fits hbuffers
  rcases remapResult_cases checks out with ⟨e, he, hr⟩ | ⟨-, hr⟩ <;> rw [hr] at hfits ⊢
  · exact firstError_mem_allErrors hlisted he
  · exact ⟨hfn, hfits⟩

theorem genericUnswz_allowed (hlisted : raisesListed family = true) :
    (genericUnswz s family lay).Allowed .unswz s.regs.params :=
  remapResult_allowed (srcLen := lay.swzLen) (.inl rfl)
    (by rw [raisesListed_append, hlisted, raisesListed_bufferChecks, Bool.and_self])
    fun c hc => List.mem_append_right _ (by rwa [length_unswizzle] at hc)

theorem genericSwz_allowed (hlisted : raisesListed family = true) :
    (genericSwz s family lay).Allowed .swz s.regs.params :=
  remapResult_allowed (srcLen := lay.linLen) (.inr rfl)
    (by rw [raisesListed_append, hlisted, raisesListed_bufferChecks, Bool.and_self])
    fun c hc => List.mem_append_right _ (by rwa [length_swizzle] at hc)

/-- The byte swap keeps the length of the buffer it swaps (R222, R225). -/
theorem exec_x360Swz_allowed (s : State) :
    ∃ r, exec .x360Swz s = .next (s.complete r) ∧ r.Allowed .swz s.regs.params :=
  ⟨_, rfl, remapResult_allowed (srcLen := (x360Layout s.regs.params).linLen) (.inr rfl) rfl fun c hc =>
    List.mem_append_right _ (by rwa [length_swapBytes, length_swizzle] at hc)⟩

theorem exec_x360Unswz_allowed (s : State) :
    ∃ r, exec .x360Unswz s = .next (s.complete r) ∧ r.Allowed .unswz s.regs.params :=
  ⟨_, rfl, remapResult_allowed (srcLen := (x360Layout s.regs.params).swzLen) (.inl rfl) rfl fun c hc =>
    List.mem_append_right _ (by rwa [length_unswizzle] at hc)⟩

/-- A PS2.4 remap stores two texels a byte, so `N / 2` bytes of `N` texels (R271). -/
theorem ps24_remapResult_allowed (f : Ps24Functions) (hfn : fn = .unswz ∨ fn = .swz) {texels : List Nibble}
    (hlen : texels.length = ps24Texels p) :
    (remapResult (ps24RemapChecks f p) (ofNibbles texels)).Allowed fn p :=
  remapResult_allowed (srcLen := ps24Texels p / 2) hfn rfl fun c hc => by
    rw [length_ofNibbles, hlen] at hc
    exact List.mem_append_left _ (List.mem_append_right _ hc)

theorem ps24Unswz_allowed (f : Ps24Functions) (s : State) : (ps24Unswz f s).Allowed .unswz s.regs.params :=
  ps24_remapResult_allowed f (.inl rfl) ((length_unswizzle ..).trans (Nat.mul_one _))

theorem ps24Swz_allowed (f : Ps24Functions) (s : State) : (ps24Swz f s).Allowed .swz s.regs.params :=
  ps24_remapResult_allowed f (.inr rfl) (length_swizzle ..)

end Remaps

section Values

variable {fn : Fn} {p : Params} {checks family : List Check} {v : Nat}

/-- An ADDR or IDX command's end, whose value fits 64 bits where the checks pass. -/
theorem valueResult_allowed (hfn : fn = .addr ∨ fn = .idx) (hlisted : raisesListed checks = true)
    (hv : firstError checks = none → v < 2 ^ 64) : (valueResult checks v).Allowed fn p := by
  rcases valueResult_cases checks v with ⟨e, he, hr⟩ | ⟨hpass, hr⟩ <;> rw [hr]
  · exact firstError_mem_allErrors hlisted he
  · exact ⟨hfn, hv hpass⟩

/-- IG 0x0B, wherever it stands among the checks, makes an address fit 64 bits (R125). -/
theorem lt_of_addrChecks {inDomain : Bool} (h : ∀ c ∈ addrChecks inDomain v, c ∈ checks)
    (hpass : firstError checks = none) : v < 2 ^ 64 := by
  have hfits := firstError_eq_none.1 hpass ⟨decide (2 ^ 64 ≤ v), .ig 0x0B⟩ (h _ (by simp [addrChecks]))
  simpa using hfits

theorem addrResult_allowed {inDomain : Bool} (hlisted : raisesListed family = true) :
    (addrResult family inDomain v).Allowed .addr p :=
  valueResult_allowed (.inl rfl) (by rw [raisesListed_append, hlisted, raisesListed_addrChecks, Bool.and_self])
    (lt_of_addrChecks fun _ hc => List.mem_append_right _ hc)

theorem ps24Addr_allowed (f : Ps24Functions) (p : Params) : (ps24Addr f p).Allowed .addr p :=
  valueResult_allowed (.inl rfl) rfl
    (lt_of_addrChecks fun _ hc => List.mem_append_left _ (List.mem_append_right _ hc))

theorem palAddr_allowed (p : Params) : (palAddr p).Allowed .addr p :=
  valueResult_allowed (.inl rfl) rfl fun _ => palPerm_mul_lt _ _

/-- An index below `W * H` fits 64 bits, as `WIDTH` and `HEIGHT` are of 32 (R156). -/
theorem idxResult_allowed {index : Nat → Nat → Nat → Nat}
    (hindex : ∀ t W H, 1 ≤ W → 1 ≤ H → index t W H < W * H) (p : Params) : (idxResult p index).Allowed .idx p := by
  refine valueResult_allowed (.inr rfl) rfl fun hpass => ?_
  have hsize := firstError_eq_none.1 hpass (checkSize p) List.mem_cons_self
  simp only [checkSize, Bool.or_eq_false_iff, beq_eq_false_iff_ne] at hsize
  obtain ⟨hW, hH⟩ := hsize
  calc index p.coordT.toNat p.width.toNat p.height.toNat
      < p.width.toNat * p.height.toNat := hindex _ _ _ (Nat.pos_of_ne_zero hW) (Nat.pos_of_ne_zero hH)
    _ ≤ 2 ^ 32 * 2 ^ 32 := Nat.mul_le_mul p.width.isLt.le p.height.isLt.le
    _ = 2 ^ 64 := by norm_num

end Values

/-- Every command completes, in an end its function allows. -/
theorem exec_completes_allowed (i : Instr) (s : State) :
    ∃ r, exec i s = .next (s.complete r) ∧ r.Allowed i.fn s.regs.params := by
  cases i
  case mortonUnswz | mortonRUnswz | ps4Unswz | ps5Unswz | blkUnswz | n3dsUnswz | pspUnswz | ps28Unswz | ps2PalUnswz
      | nswUnswz | wiiuUnswz => exact ⟨_, rfl, genericUnswz_allowed rfl⟩
  case mortonSwz | mortonRSwz | ps4Swz | ps5Swz | blkSwz | n3dsSwz | pspSwz | ps28Swz | ps2PalSwz | nswSwz
      | wiiuSwz => exact ⟨_, rfl, genericSwz_allowed rfl⟩
  case mortonAddr | mortonRAddr | x360Addr | ps4Addr | ps5Addr | blkAddr | n3dsAddr | pspAddr | ps28Addr | nswAddr
      | wiiuAddr => exact ⟨_, rfl, addrResult_allowed rfl⟩
  case x360Unswz => exact exec_x360Unswz_allowed s
  case x360Swz => exact exec_x360Swz_allowed s
  case ps24Unswz => exact ⟨_, rfl, ps24Unswz_allowed _ s⟩
  case ps24Swz => exact ⟨_, rfl, ps24Swz_allowed _ s⟩
  case ps24Addr => exact ⟨_, rfl, ps24Addr_allowed _ _⟩
  case ps2PalAddr => exact ⟨_, rfl, palAddr_allowed _⟩
  case mortonIdx => exact ⟨_, rfl, idxResult_allowed (fun t _ _ hW hH => midx_lt t hW hH) _⟩
  case mortonRIdx => exact ⟨_, rfl, idxResult_allowed (fun t _ _ hW hH => midxr_lt t hW hH) _⟩

/-- R91: the decoder's errors are among those of R372. -/
theorem decodeErrorCode_mem_allErrors (e : DecodeError) : decodeErrorCode e ∈ allErrors := by
  cases e <;> decide

/-- Every word written to `CMD` completes, in an end that its FN field allows. -/
theorem runCommand_completes_allowed (c : Word) (s : State) :
    ∃ r, runCommand c s = .next (s.complete r) ∧ r.Allowed (Fn.ofCode (wordFn c)) s.regs.params := by
  cases hc : decode c with
  | ok i =>
    obtain ⟨-, -, hfn⟩ := decode_eq_ok_iff.1 hc
    rw [runCommand_of_decode hc, Fn.ofCode_wordFn_eq_iff.2 hfn]
    exact exec_completes_allowed i s
  | error e => exact ⟨.error (decodeErrorCode e), runCommand_of_error hc, decodeErrorCode_mem_allErrors e⟩

/-- Settles O11: the three ends a command can come to, each with the effect R380 and R381 give it. -/
theorem everyCommandEndsInOneOfTwoWays : Obligations.EveryCommandEndsInOneOfTwoWays := by
  intro i s
  obtain ⟨r, hexec, hr⟩ := exec_completes_allowed i s
  refine ⟨_, hexec, ?_⟩
  cases r with
  | error e => exact .inl ⟨e, hr, s.raise_effect e⟩
  | value v =>
    obtain ⟨hfn, hv⟩ := hr
    exact .inr (.inl ⟨hfn, v, s.succeedValue_effect hv⟩)
  | output out =>
    obtain ⟨hfn, hfits⟩ := hr
    have hframe := s.succeedOutput_frame hfits.length_lt
    obtain ⟨hcap, hwrap⟩ := hfits
    exact .inr (.inr ⟨hfn, out.length, hcap, hwrap, hframe⟩)

end Sys2Proof.Machine
end

section
/-! What an access to the registers of one number can do, and that it keeps the invariant and the other instances
(R61, R384, R390). -/

namespace Sys2Proof.Machine

/-- Everything an access can do once the number it names is addressed: answer a read, store a register, complete a
command, or reset (R25, R61, R401). -/
inductive InstanceEffect (s : State) : State → Prop
  | answers (v : Answer) : InstanceEffect s { s with answer := v }
  | stores (offset : Nat) (v : Word) : InstanceEffect s { s with regs := s.regs.writeOffset offset v }
  | completes {fn : Fn} {r : CmdResult} (hr : r.Allowed fn s.regs.params) : InstanceEffect s (s.complete r)
  | resets : InstanceEffect s s.resetSelected

variable {s t : State} {k : Nat}

/-! ## Which accesses have these effects -/

theorem readRegister_effect {offset : Nat} (h : readRegister offset s = .next t) : InstanceEffect s t := by
  obtain rfl := Host.Outcome.next.inj h
  exact .answers _

theorem writeRegister_effect {v : Word} {offset : Nat} (h : writeRegister v offset s = .next t) :
    InstanceEffect s t := by
  by_cases hcmd : offset = 0
  · obtain ⟨r, hrun, hr⟩ := runCommand_completes_allowed v s
    rw [hcmd, writeRegister_cmd, hrun] at h
    obtain rfl := Host.Outcome.next.inj h
    exact .completes hr
  · rw [writeRegister_of_ne v s hcmd] at h
    obtain rfl := Host.Outcome.next.inj h
    exact .stores _ _

theorem resetInstance_effect (h : resetInstance k s = .next t) :
    ∃ s', s.select k = some s' ∧ InstanceEffect s' t := by
  cases hsel : s.select k with
  | none => cases (hostAccess_resetInstance_of_no_instance hsel).symm.trans h
  | some s' =>
    obtain rfl := Host.Outcome.next.inj ((hostAccess_resetInstance hsel).symm.trans h)
    exact ⟨s', rfl, .resets⟩

/-- A register access has the effect of what it asks for, on the number its target resolves to. -/
theorem registerAccess_effect {bytes : Nat} {target : RegTarget} {act : Nat → State → Host.Outcome State Fault Refusal}
    (hact : ∀ {offset s' t}, act offset s' = .next t → InstanceEffect s' t)
    (h : registerAccess bytes target s act = .next t) :
    ∃ k offset s', resolveTarget s.instanceCount target = some (k, offset) ∧ s.select k = some s' ∧
      InstanceEffect s' t := by
  obtain ⟨-, k, offset, s', htarget, hsel, -, -, hnext⟩ := registerAccess_eq_next h
  exact ⟨k, offset, s', htarget, hsel, hact hnext⟩

/-- A register access that names number `k` acts on the registers of `k`. -/
theorem registerAccess_reg_effect {bytes offset : Nat} {act : Nat → State → Host.Outcome State Fault Refusal}
    (hact : ∀ {offset s' t}, act offset s' = .next t → InstanceEffect s' t)
    (h : registerAccess bytes (.reg k offset) s act = .next t) : ∃ s', s.select k = some s' ∧ InstanceEffect s' t := by
  obtain ⟨k', offset', s', htarget, hsel, heffect⟩ := registerAccess_effect hact h
  obtain ⟨rfl, -⟩ := Prod.mk.inj (Option.some.inj htarget)
  exact ⟨s', hsel, heffect⟩

/-! ## The other instances (R384) -/

theorem InstanceEffect.selected_others (h : InstanceEffect s t) : t.selected = s.selected ∧ t.others = s.others := by
  cases h with
  | answers v => exact ⟨rfl, rfl⟩
  | stores offset v => exact ⟨rfl, rfl⟩
  | completes hr => exact ⟨s.complete_selected _, s.complete_others _⟩
  | resets => exact ⟨rfl, rfl⟩

/-- An access to number `k` replaces the register file of `k` and no other. -/
theorem InstanceEffect.instances_of_select {s' : State} (hs : s.selected ≤ s.others.length)
    (hsel : s.select k = some s') (h : InstanceEffect s' t) : t.instances = s.instances.set k t.regs := by
  obtain ⟨hselected, hothers⟩ := h.selected_others
  obtain ⟨hk, hinst, -, hlen, hle, -⟩ := State.select_spec hs hsel
  have hs' : s'.selected ≤ s'.others.length := by omega
  calc t.instances
      = ({ s' with regs := t.regs } : State).instances := by simp only [State.instances, hselected, hothers]
    _ = s'.instances.set s'.selected t.regs := State.instances_with_regs hs' _
    _ = s.instances.set k t.regs := by rw [hinst, hk]

/-- Settles O14: each of the three accesses acts on the registers of `k`, and so replaces one register file. -/
theorem accessesToOneInstanceLeaveTheOthers : Obligations.AccessesToOneInstanceLeaveTheOthers := by
  intro s t a k hs ha h
  have heffect : ∃ s', s.select k = some s' ∧ InstanceEffect s' t := by
    obtain ⟨bytes, offset, v, rfl | rfl | rfl⟩ := ha
    · exact registerAccess_reg_effect readRegister_effect h
    · exact registerAccess_reg_effect writeRegister_effect h
    · exact resetInstance_effect h
  obtain ⟨s', hsel, heffect⟩ := heffect
  rw [heffect.instances_of_select hs hsel]
  exact ⟨List.length_set, fun j hj => List.getElem?_set_ne hj.symm⟩

/-! ## The invariant -/

theorem Results.legal_reset : Results.reset.Legal := .inl rfl

/-- R380, R381: what a completed command leaves in the result registers. -/
theorem CmdResult.Allowed.legal {fn : Fn} {p : Params} {r : CmdResult} (h : r.Allowed fn p) : r.results.Legal := by
  cases r with
  | error e => exact .inr (.inr ⟨e, h, results_of_error e⟩)
  | value v => exact .inr (.inl ⟨rfl, .inl ⟨rfl, rfl⟩⟩)
  | output out => exact .inr (.inl ⟨rfl, .inr ⟨rfl, rfl⟩⟩)

theorem CmdResult.Allowed.complete_wf {fn : Fn} {r : CmdResult} (h : r.Allowed fn s.regs.params) (hmem : s.mem.wf) :
    (s.complete r).mem.wf := by
  cases r with
  | error e => exact hmem
  | value v => exact hmem
  | output out =>
    obtain ⟨-, -, hwrap⟩ := h
    exact Memory.wf_writeBytes hmem hwrap

theorem State.mem_instances {f : RegFile} : f ∈ s.instances ↔ f = s.regs ∨ f ∈ s.others := by
  have hothers : f ∈ s.others ↔ f ∈ s.others.take s.selected ∨ f ∈ s.others.drop s.selected := by
    rw [← List.mem_append, List.take_append_drop]
  rw [hothers, State.instances, List.mem_append, List.mem_cons, or_left_comm]

/-- The invariant speaks of the instances, and not of which of them is addressed. -/
theorem Inv.select {s' : State} (h : Inv s) (hsel : s.select k = some s') : Inv s' := by
  obtain ⟨hk, hinst, -, hlen, hle, hmem, -⟩ := State.select_spec h.addressed hsel
  refine ⟨hmem ▸ h.memory, by omega, fun f hf => h.results f ?_⟩
  rwa [← State.mem_instances, ← hinst, State.mem_instances]

/-- The invariant after a step that leaves the other instances alone. -/
theorem Inv.of_regs (h : Inv s) (hselected : t.selected = s.selected) (hothers : t.others = s.others)
    (hmem : t.mem.wf) (hregs : t.regs.results.Legal) : Inv t := by
  refine ⟨hmem, by rw [hselected, hothers]; exact h.addressed, ?_⟩
  rintro f (rfl | hf)
  · exact hregs
  · exact h.results f (.inr (hothers ▸ hf))

theorem InstanceEffect.inv (h : InstanceEffect s t) (hinv : Inv s) : Inv t := by
  obtain ⟨hselected, hothers⟩ := h.selected_others
  have hlegal : s.regs.results.Legal := hinv.results _ (.inl rfl)
  refine hinv.of_regs hselected hothers ?_ ?_
  · cases h with
    | answers v => exact hinv.memory
    | stores offset v => exact hinv.memory
    | completes hr => exact hr.complete_wf hinv.memory
    | resets => exact hinv.memory
  · cases h with
    | answers v => exact hlegal
    | stores offset v => rwa [RegFile.writeOffset_results]
    | completes hr => rw [State.complete_regs]; exact hr.legal
    | resets => exact Results.legal_reset

theorem Inv.resetEvery (h : Inv s) : Inv s.resetEvery := by
  refine ⟨h.memory, by simpa using h.addressed, ?_⟩
  rintro f (rfl | hf)
  · exact Results.legal_reset
  · obtain ⟨-, -, rfl⟩ := List.mem_map.1 hf
    exact Results.legal_reset

/-- R60: a host store is of one byte, inside the address space. -/
theorem Inv.memWrite (h : Inv s) (x : Address) (v : Byte) :
    Inv { s with mem := s.mem.writeBytes x.toNat [v] } := by
  have hfits : x.toNat + [v].length ≤ 2 ^ 64 := x.isLt
  exact h.of_regs rfl rfl (Memory.wf_writeBytes h.memory hfits) (h.results _ (.inl rfl))

/-- Every access of the host keeps the invariant. -/
theorem hostAccess_keeps_inv {a : HostAccess} (hinv : Inv s) (h : hostAccess a s = .next t) : Inv t := by
  have hregister : (∃ k s', s.select k = some s' ∧ InstanceEffect s' t) → Inv t := by
    rintro ⟨k, s', hsel, heffect⟩
    exact heffect.inv (hinv.select hsel)
  cases a with
  | regRead bytes target =>
    obtain ⟨k, -, s', -, hsel, heffect⟩ := registerAccess_effect readRegister_effect h
    exact hregister ⟨k, s', hsel, heffect⟩
  | regWrite bytes target value =>
    obtain ⟨k, -, s', -, hsel, heffect⟩ := registerAccess_effect writeRegister_effect h
    exact hregister ⟨k, s', hsel, heffect⟩
  | memRead address =>
    obtain rfl := Host.Outcome.next.inj h
    exact hinv.of_regs rfl rfl hinv.memory (hinv.results _ (.inl rfl))
  | memWrite address value =>
    obtain rfl := Host.Outcome.next.inj h
    exact hinv.memWrite address value
  | resetInstance k => exact hregister ⟨k, resetInstance_effect h⟩
  | resetAll =>
    obtain rfl := Host.Outcome.next.inj h
    exact hinv.resetEvery

/-- Settles O10: a step without an access to come changes nothing, and every access keeps the invariant. -/
theorem everyStepKeepsTheInvariant : Obligations.EveryStepKeepsTheInvariant := by
  intro s t hinv h
  cases hpending : s.pending with
  | nil =>
    obtain rfl := Host.Outcome.next.inj ((step_idle hpending).symm.trans h)
    exact hinv
  | cons a rest =>
    have htaking : Inv (s.taking rest) := hinv.of_regs rfl rfl hinv.memory (hinv.results _ (.inl rfl))
    exact hostAccess_keeps_inv htaking ((step_access hpending).symm.trans h)

end Sys2Proof.Machine
end

section
/-! The machine after a reset (R400, R401). -/

namespace Sys2Proof.Machine

/-- R400: after reset every register file is the reset one, whichever is addressed. -/
theorem State.eq_reset_of_mem_instances_reset {f : RegFile} (h : f ∈ State.reset.instances) : f = RegFile.reset := by
  rcases State.mem_instances.1 h with rfl | hothers
  · rfl
  · exact List.eq_of_mem_replicate hothers

/-- R401: so it is after the platform's reset of all instances, in any state. -/
theorem State.eq_reset_of_mem_instances_resetEvery {s : State} {f : RegFile} (h : f ∈ s.resetEvery.instances) :
    f = RegFile.reset := by
  rcases State.mem_instances.1 h with rfl | hothers
  · rfl
  · obtain ⟨-, -, rfl⟩ := List.mem_map.1 hothers
    rfl

theorem State.length_instances_resetEvery (s : State) : s.resetEvery.instances.length = s.instances.length := by
  rw [State.length_instances, State.length_instances, State.resetEvery_others, List.length_map]

/-- Settles O8: each of the three resets leaves the reset register file, every offset of which reads 0. -/
theorem resetLeavesEveryRegisterZero : Obligations.ResetLeavesEveryRegisterZero := by
  refine ⟨fun f offset hf => ?_, fun s => ?_, fun s => ?_⟩
  · rw [State.eq_reset_of_mem_instances_reset hf, RegFile.readOffset_reset]
  · refine ⟨s.resetEvery, rfl, s.resetEvery_mem, s.length_instances_resetEvery, fun f offset hf => ?_⟩
    rw [State.eq_reset_of_mem_instances_resetEvery hf, RegFile.readOffset_reset]
  · refine ⟨s.resetSelected, hostAccess_resetInstance s.select_self, s.resetSelected_mem, s.resetSelected_others,
      fun offset => ?_⟩
    rw [State.resetSelected_regs, RegFile.readOffset_reset]

/-- Settles O9: memory lists nothing, number 0 is always in range, and the result registers are those of reset. -/
theorem resetMeetsTheInvariant : Obligations.ResetMeetsTheInvariant where
  memory := ⟨.nil, List.forall_mem_nil _⟩
  addressed := Nat.zero_le _
  results f hf := by
    rw [State.eq_reset_of_mem_instances_reset (State.mem_instances.2 hf)]
    exact Results.legal_reset

end Sys2Proof.Machine
end

section
/-! The checks each command runs before it looks at its buffers or its coordinates, and what they find right after
reset (R126, R374, R402). -/

namespace Sys2Proof.Machine

/-- The checks a command starts with (R126): those of its family, or the only one of them that an IDX command or
`PS2.PAL.ADDR` runs (R156, R157, R284). -/
def familyChecks (p : Params) : Instr → List Check
  | .mortonUnswz | .mortonSwz | .mortonAddr | .mortonRUnswz | .mortonRSwz | .mortonRAddr => mortonChecks p
  | .mortonIdx | .mortonRIdx => [checkSize p]
  | .x360Unswz | .x360Swz => x360SwapCheck p :: x360Checks p
  | .x360Addr => x360Checks p
  | .ps4Unswz | .ps4Swz | .ps4Addr => ps4Checks p
  | .ps5Unswz | .ps5Swz | .ps5Addr => ps5Checks (ps5Selected p) p
  | .blkUnswz | .blkSwz | .blkAddr => blkChecks p
  | .n3dsUnswz | .n3dsSwz | .n3dsAddr => n3dsChecks p
  | .pspUnswz | .pspSwz | .pspAddr => pspChecks p
  | .ps28Unswz | .ps28Swz | .ps28Addr => ps28Checks p
  | .ps24Unswz | .ps24Swz | .ps24Addr => ps24Checks (ps24Selected p) p
  | .ps2PalUnswz | .ps2PalSwz => palChecks p
  | .ps2PalAddr => [palEntryCheck p]
  | .nswUnswz | .nswSwz | .nswAddr => nswChecks p
  | .wiiuUnswz | .wiiuSwz | .wiiuAddr => wiiuChecks (wiiuSelected p) p

variable {s : State} {p : Params} {e : CmdError} {family : List Check}

theorem valueResult_append_of_error (h : firstError family = some e) (cs : List Check) (v : Nat) :
    valueResult (family ++ cs) v = .error e := by
  simp [valueResult, firstError_append, h]

/-- WIIU's surface check comes between the family's checks and the buffers (R336, R338). -/
theorem remapResult_surface_of_error (h : firstError family = some e) (surface : Check) (cs : List Check)
    (out : List Byte) : remapResult (family ++ [surface] ++ cs) out = .error e := by
  rw [List.append_assoc, remapResult_append_of_error h]

/-- Every command ends in the first error of its family's checks, if there is one. -/
theorem exec_of_familyChecks {i : Instr} (h : firstError (familyChecks s.regs.params i) = some e) :
    ∃ t, exec i s = .next t ∧ ErrorEffect s t e := by
  suffices hends : ∃ r, exec i s = .next (s.complete r) ∧ r = .error e by
    obtain ⟨r, hexec, rfl⟩ := hends
    exact ⟨_, hexec, s.raise_effect e⟩
  cases i
  case mortonUnswz | mortonSwz | mortonRUnswz | mortonRSwz | x360Unswz | x360Swz | ps4Unswz | ps4Swz | ps5Unswz
      | ps5Swz | blkUnswz | blkSwz | n3dsUnswz | n3dsSwz | pspUnswz | pspSwz | ps28Unswz | ps28Swz | ps2PalUnswz
      | ps2PalSwz | nswUnswz | nswSwz => exact ⟨_, rfl, remapResult_append_of_error h _ _⟩
  case wiiuUnswz | wiiuSwz => exact ⟨_, rfl, remapResult_surface_of_error h _ _ _⟩
  case ps24Unswz | ps24Swz => exact ⟨_, rfl, ps24_remapResult_of_error _ h _⟩
  case mortonAddr | mortonRAddr | x360Addr | ps4Addr | ps5Addr | blkAddr | n3dsAddr | pspAddr | ps28Addr | nswAddr
      | wiiuAddr => exact ⟨_, rfl, addrResult_of_error h _ _⟩
  case ps24Addr => exact ⟨_, rfl, ps24Addr_of_error _ h⟩
  case mortonIdx | mortonRIdx | ps2PalAddr => exact ⟨_, rfl, valueResult_append_of_error h _ _⟩

/-! ## The OPEN families right after reset (R402) -/

/-- R237: without a super-tile the command ends there; with one, its image is empty. -/
theorem firstError_ps5Checks_reset (tile : Option Ps5Tile) :
    firstError (ps5Checks tile Params.reset) = some (if tile = none then .up 0x23 else .ig 0x01) := by
  cases tile <;> rfl

/-- R338: tile mode 0 and one sample are legal, so after the bits per element the next check to fail is that of the
size. -/
theorem firstError_wiiuChecks_reset (f : WiiuFormat) :
    firstError (wiiuChecks f Params.reset) =
      some (if f.bpp ∈ [8, 16, 32, 64, 128] then .ig 0x01 else .up 0x21) := by
  have hmode : ¬ 16 < Params.reset.wiiuTileMode.toNat := by decide
  by_cases hbpp : f.bpp ∈ [8, 16, 32, 64, 128]
  · have hsize : (checkSize Params.reset).fails = true := by decide
    have hsingle : Params.reset.wiiuAa.toNat = 0 := by decide
    simp [wiiuChecks, firstError_cons, hmode, hbpp, hsingle, hsize]
  · simp [wiiuChecks, firstError_cons, hmode, hbpp]

/-- In the state after reset the checks read zeros. -/
theorem exec_reset_of_familyChecks {is : List Instr}
    (h : ∀ i ∈ is, firstError (familyChecks Params.reset i) = some e) :
    ∀ i ∈ is, ∃ t, exec i State.reset = .next t ∧ ErrorEffect State.reset t e :=
  fun i hi => exec_of_familyChecks (h i hi)

/-- Settles O58: each clause names the first of its commands' checks that fails on parameter registers of zeros. -/
theorem commandsRightAfterReset : Obligations.CommandsRightAfterReset := by
  refine ⟨exec_reset_of_familyChecks ?size, exec_reset_of_familyChecks ?selector, exec_reset_of_familyChecks ?entry,
    exec_reset_of_familyChecks ?x360Unit, exec_reset_of_familyChecks ?nswUnit, exec_reset_of_familyChecks ?bpp,
    exec_reset_of_familyChecks ?ps5, exec_reset_of_familyChecks ?wiiu⟩
  case size | selector | entry | x360Unit | nswUnit | bpp => decide
  case ps5 =>
    have htile := firstError_ps5Checks_reset (Config.ps5Tile 0)
    exact List.forall_iff_forall_mem.1 ⟨htile, htile, htile⟩
  case wiiu =>
    have hformat := firstError_wiiuChecks_reset (wiiuOpenFormat 0)
    exact List.forall_iff_forall_mem.1 ⟨hformat, hformat, hformat⟩

end Sys2Proof.Machine
end
